-- ==== Sys2Proof/Word.lean ====
section
/-! DEFINITION. The word types of the block: cells, bytes, percents and command words (R10, R11). -/

namespace Sys2Proof

/-- One 32-bit cell of a register window; also a clock count (R8 CELL_BITS, R10). -/
abbrev Word := BitVec 32

/-- A selector, an index, a colour tag, a silk identity or a palette component (R10). -/
abbrev Byte := BitVec 8

/-- The percent operand: 16 bits unsigned (R10). -/
abbrev Percent := BitVec 16

/-- One command: a 64-bit word (R91). -/
abbrev CommandWord := BitVec 64

end Sys2Proof
end

