-- ==== Sys2Proof/Syntax.lean ====
section
/-! DEFINITION. The ten operations of the block (R5), one constructor for each row of the opcode table (R95). Operands are
the unsigned fields of R94, in the written order of R101; their widths are their types, so no operand can be out of range. -/

namespace Sys2Proof

/-- The ten commands (R5, R101). -/
inductive Instr where
  | setPeriod (dev : Byte) (count : Word)                       -- SETPERIOD, R121
  | setDuty (dev : Byte) (count : Word) (idx : Byte)            -- SETDUTY, R123
  | enable (dev : Byte)                                         -- ENABLE, R125
  | disable (dev : Byte)                                        -- DISABLE, R127
  | setLedPercent (silk : Byte) (tag : Byte) (percent : Percent) -- SETLEDPERCENT, R143
  | setPalette (silk : Byte) (r g b : Byte)                     -- SETPALETTE, R148
  | allLedsOff                                                  -- ALLLEDSOFF, R152
  | configureDevice (dev : Byte)                                -- CONFIGUREDEVICE, R172
  | reacknowledge (dev : Byte)                                  -- REACKNOWLEDGE, R176
  | ackNotification (dev : Byte)                                -- ACKNOTIFICATION, R181
  deriving DecidableEq, Repr

/-- The colour tags of the three components (R33, R101). -/
def tagRed : Byte := 0
def tagGreen : Byte := 1
def tagBlue : Byte := 2

/-- The pseudo-operation REARM: REACKNOWLEDGE, then ACKNOTIFICATION (R102). -/
def rearm (dev : Byte) : List Instr := [.reacknowledge dev, .ackNotification dev]

end Sys2Proof
end

