-- ==== Sys2Proof/Decode.lean ====
section
/-! DEFINITION. The decoder (R96, total on every 64-bit word, refusing by name) and the encoder, both from the formats of
R91 to R95. -/

namespace Sys2Proof

/-- Why a word is no command (R97). -/
inductive DecodeError where
  /-- (1) OPC is not one of the ten codes. -/
  | unassignedOpcode
  /-- (2) RSV is not 0. -/
  | reservedNotZero
  /-- (3) a field the format requires to be 0 is not. -/
  | unusedFieldNotZero
  deriving DecidableEq, Repr

/-- The fields of a command word (R91). -/
def fieldOpc (w : CommandWord) : Byte := w.extractLsb' 56 8
def fieldSel (w : CommandWord) : Byte := w.extractLsb' 48 8
def fieldIdx (w : CommandWord) : Byte := w.extractLsb' 40 8
def fieldRsv (w : CommandWord) : Byte := w.extractLsb' 32 8
def fieldData (w : CommandWord) : Word := w.extractLsb' 0 32
/-- DATA[31:16], DATA[31:24] and the operands inside DATA (R93, R94). -/
def fieldHigh16 (w : CommandWord) : BitVec 16 := w.extractLsb' 16 16
def fieldHigh8 (w : CommandWord) : Byte := w.extractLsb' 24 8
def fieldPercent (w : CommandWord) : Percent := w.extractLsb' 0 16
def fieldR (w : CommandWord) : Byte := w.extractLsb' 16 8
def fieldG (w : CommandWord) : Byte := w.extractLsb' 8 8
def fieldB (w : CommandWord) : Byte := w.extractLsb' 0 8

/-- The decoded instruction if the fields that must be 0 are 0 (R97 (3)). -/
def whenZero (unusedZero : Bool) (i : Instr) : Except DecodeError Instr :=
  if unusedZero then .ok i else .error .unusedFieldNotZero

/-- The row selected by OPC, with its operands and its must-be-zero fields; RSV is already known to be 0. -/
def decodeFormat (w : CommandWord) : Except DecodeError Instr :=
  match (fieldOpc w).toNat with
  | 0x01 => whenZero (fieldIdx w == 0) (.setPeriod (fieldSel w) (fieldData w))
  | 0x02 => .ok (.setDuty (fieldSel w) (fieldData w) (fieldIdx w))
  | 0x03 => whenZero (fieldIdx w == 0 && fieldData w == 0) (.enable (fieldSel w))
  | 0x04 => whenZero (fieldIdx w == 0 && fieldData w == 0) (.disable (fieldSel w))
  | 0x10 => whenZero (fieldHigh16 w == 0) (.setLedPercent (fieldSel w) (fieldIdx w) (fieldPercent w))
  | 0x11 => whenZero (fieldIdx w == 0 && fieldHigh8 w == 0)
      (.setPalette (fieldSel w) (fieldR w) (fieldG w) (fieldB w))
  | 0x12 => whenZero (fieldSel w == 0 && fieldIdx w == 0 && fieldData w == 0) .allLedsOff
  | 0x20 => whenZero (fieldIdx w == 0 && fieldData w == 0) (.configureDevice (fieldSel w))
  | 0x21 => whenZero (fieldIdx w == 0 && fieldData w == 0) (.reacknowledge (fieldSel w))
  | 0x22 => whenZero (fieldIdx w == 0 && fieldData w == 0) (.ackNotification (fieldSel w))
  | _ => .error .unassignedOpcode

/-- OPC is one of the ten codes of R95. -/
def assignedOpcode (opc : Byte) : Bool :=
  [0x01, 0x02, 0x03, 0x04, 0x10, 0x11, 0x12, 0x20, 0x21, 0x22].contains opc.toNat

/-- The decoder (R96): the refusals in the order of R97. -/
def decode (w : CommandWord) : Except DecodeError Instr :=
  if assignedOpcode (fieldOpc w) then
    if fieldRsv w == 0 then decodeFormat w else .error .reservedNotZero
  else .error .unassignedOpcode

/-- A word from its five fields (R91). -/
def pack (opc sel idx rsv : Byte) (data : Word) : CommandWord := opc ++ sel ++ idx ++ rsv ++ data

/-- The word of a command (R92, R93, R95). -/
def encode : Instr → CommandWord
  | .setPeriod dev count => pack 0x01 dev 0 0 count
  | .setDuty dev count idx => pack 0x02 dev idx 0 count
  | .enable dev => pack 0x03 dev 0 0 0
  | .disable dev => pack 0x04 dev 0 0 0
  | .setLedPercent silk tag percent => pack 0x10 silk tag 0 ((0 : BitVec 16) ++ percent)
  | .setPalette silk r g b => pack 0x11 silk 0 0 ((0 : Byte) ++ r ++ g ++ b)
  | .allLedsOff => pack 0x12 0 0 0 0
  | .configureDevice dev => pack 0x20 dev 0 0 0
  | .reacknowledge dev => pack 0x21 dev 0 0 0
  | .ackNotification dev => pack 0x22 dev 0 0 0

/-- The instruction the decoder reads from the table's number `w`: a command is one 64-bit word (R91), so the table's bit
numbers are the word's own. -/
def decodeTableWord (nbits w : Nat) : Option Instr :=
  if nbits ≤ 64 ∧ w < 2 ^ 64 then
    match decode (BitVec.ofNat 64 w) with
    | .ok i => some i
    | .error _ => none
  else none

end Sys2Proof
end

