-- ==== Sys2Proof/Config.lean ====
section
/-! DEFINITION. What is fixed for one machine (R9, R19, R30, R33, R233), the constants the source fixes (R8), the values
the spec leaves free, and the spec's example configuration EX1 (95_test_vectors.md section 1). -/

namespace Sys2Proof

/-- Which host handler serves a device (R30 `kind`). -/
inductive DeviceKind where
  | motion | swbtn | indicator | pwm | other
  deriving DecidableEq, Repr

/-- The DeviceDescriptor of one slot (R30). -/
structure Device where
  name      : String
  base      : BitVec 32
  mapped    : Bool
  winCells  : Nat
  hasHandle : Bool
  enable1   : Bool
  output1   : Bool
  enable2   : Bool
  output2   : Bool
  hasIrq    : Bool
  kind      : DeviceKind
  deriving DecidableEq, Repr

/-- One tuple of the channel table (R33). -/
structure Channel where
  bank         : Nat
  channelIndex : Byte
  maxDuty      : Word
  colorTag     : Byte
  silkId       : Byte
  deriving DecidableEq, Repr

/-- What an 8-bit palette component of the host does on overflow or underflow (R234). -/
inductive PaletteArith where
  | wrap | saturate
  deriving DecidableEq, Repr

/-- A palette: three components, red, green, blue (R11). -/
structure Palette where
  r : Byte
  g : Byte
  b : Byte
  deriving DecidableEq, Repr, Inhabited

/-- The parameters of R9 and R233 and the two tables. Offsets are cell indexes (R61). -/
structure Config where
  dev                : List Device
  pwmBanks           : List Nat
  pwmPeriod          : Word
  chan               : List Channel
  pwmCtrlOff         : Nat
  pwmPeriodOff       : Nat
  pwmDutyBase        : Nat
  pwmRunBit          : Fin 32
  gpioData1Off       : Nat
  gpioTri1Off        : Nat
  gpioData2Off       : Nat
  gpioTri2Off        : Nat
  gpioGierOff        : Nat
  gpioIsrOff         : Nat
  gpioIerOff         : Nat
  ierCh1Bit          : Fin 32
  ierCh2Bit          : Fin 32
  tReackPre          : Nat
  tReackPost         : Nat
  tAck               : Nat
  notifyPayloadBytes : Nat
  swIndBit           : Fin 32
  btnIndBit          : Fin 32
  silkA              : Byte
  silkB              : Byte
  paletteArith       : PaletteArith
  deriving DecidableEq, Repr

namespace Config

def nDev (c : Config) : Nat := c.dev.length
def nBank (c : Config) : Nat := c.pwmBanks.length
def nChan (c : Config) : Nat := c.chan.length

/-- A window was obtained for slot `d` (R30); false for a slot that does not exist. -/
def mapped (c : Config) (d : Nat) : Bool := (c.dev[d]?).any (·.mapped)

/-- A notification handle was obtained for slot `d` (R30). -/
def hasHandle (c : Config) (d : Nat) : Bool := (c.dev[d]?).any (·.hasHandle)

/-- Cells in the window of slot `d` (R30); none for a slot that does not exist. -/
def winCells (c : Config) (d : Nat) : Nat := ((c.dev[d]?).map (·.winCells)).getD 0

/-- The slot is a source the host waits on (R31): it has an interrupt, a window and a handle. -/
def inWaitSet (c : Config) (d : Nat) : Bool :=
  (c.dev[d]?).any fun D => D.hasIrq && D.mapped && D.hasHandle

/-- The slot is an input or indicator device (R266 step 3). -/
def isInputOrIndicator (c : Config) (d : Nat) : Bool :=
  (c.dev[d]?).any fun D => D.kind == .motion || D.kind == .swbtn || D.kind == .indicator

end Config

/-- PERCENT_SCALE (R8). -/
def percentScale : Nat := 1000
/-- PALETTE_MAX (R8). -/
def paletteMax : Nat := 255
/-- GIER_TOP_BIT (R8). -/
def gierTopBit : Nat := 31
/-- TRI_DRIVE (R8). -/
def triDrive : Word := 0x00000000#32
/-- TRI_INPUT (R8). -/
def triInput : Word := 0xFFFFFFFF#32
/-- ACK_BYTES, first byte first (R8, R72). -/
def ackBytes : List Byte := [0x01#8, 0x00#8, 0x00#8, 0x00#8]
/-- PALETTE_NEUTRAL (R8, R263). -/
def paletteNeutral : Palette := ⟨2, 2, 2⟩
/-- IND: the indicator is the second device of the table, slot 1 (R32, R230). -/
def indSlot : Nat := 1
/-- MOTION_IND_MASK (R233). -/
def motionIndMask : Word := 0x0000000C#32

/-- The switch bits whose palette rule the source does not give (R229, U18). -/
inductive OpenRule where
  | bit2 | bit4 | bit8
  deriving DecidableEq, Repr

namespace Config.Free

/-- What cell `d:i` holds at reset (R56, U14); log 5. -/
opaque cellAtReset : Nat → Nat → Word
/-- The input level of channel `ch` (1 or 2) of slot `d` at reset (R41, R56); log 11. -/
opaque pinsAtReset : Nat → Nat → Word
/-- `masked[d]` at reset (R213); log 10. -/
opaque maskedAtReset : Nat → Bool
/-- `readable[d]` at reset (R213); log 10. -/
opaque readableAtReset : Nat → Bool
/-- `count[d]` at reset (R213); log 10. -/
opaque countAtReset : Nat → Nat
/-- CMD at reset (R55, U15); log 9. -/
opaque cmdAtReset : CommandWord
/-- ISR_LATCH at reset (R55, U15); log 9. -/
opaque isrLatchAtReset : Word
/-- What the `n`-th read of an unknown cell returns, for cell `d:i` (R46, U16); log 7. -/
opaque unknownCell : Nat → Nat → Nat → Word
/-- Byte `j` of the notification payload of `n` bytes whose content is `count` (R73); the source gives the bytes no layout
(U10); log 35. -/
opaque payloadByte (n count j : Nat) : Byte
/-- The palette rules for switch bits 0x2, 0x4 and 0x8 (R229, U18); log 26. -/
opaque paletteRule : OpenRule → Palette → Palette → Palette × Palette

end Config.Free

/-- EX1 (95_test_vectors.md section 1): the spec's example configuration, with EX1's values for every parameter it
names; the delays and the palette policy, which EX1 leaves open, are 1 and `wrap` (log 1). -/
def Config.ex1 : Config where
  dev := [
    ⟨"switch/button", 0, true, 128, true, true, false, true, false, true, .swbtn⟩,
    ⟨"indicator", 0, true, 128, false, true, true, false, false, false, .indicator⟩,
    ⟨"motion", 0, true, 128, true, true, false, false, false, true, .motion⟩,
    ⟨"pwm", 0, true, 64, false, false, false, false, false, false, .pwm⟩]
  pwmBanks := [3]
  pwmPeriod := 5000
  chan := [
    ⟨0, 0, 4000, 0, 0⟩, ⟨0, 1, 2500, 1, 0⟩, ⟨0, 2, 3333, 2, 0⟩,
    ⟨0, 3, 4000, 0, 1⟩, ⟨0, 4, 2500, 1, 1⟩, ⟨0, 5, 3333, 2, 1⟩]
  pwmCtrlOff := 0
  pwmPeriodOff := 2
  pwmDutyBase := 16
  pwmRunBit := 0
  gpioData1Off := 0
  gpioTri1Off := 1
  gpioData2Off := 2
  gpioTri2Off := 3
  gpioGierOff := 71
  gpioIsrOff := 72
  gpioIerOff := 74
  ierCh1Bit := 0
  ierCh2Bit := 1
  tReackPre := 1
  tReackPost := 1
  tAck := 1
  notifyPayloadBytes := 4
  swIndBit := 0
  btnIndBit := 1
  silkA := 0
  silkB := 1
  paletteArith := .wrap

end Sys2Proof
end

