-- ==== Sys2Proof/Machine/Store.lean ====
section
/-! DEFINITION. Sparse data by key: a list of (key, value) pairs in one canonical form, keys strictly rising in an order
`lt`. Used for the window cells, the input pins, the endpoints, the device states and the counters. -/

namespace Sys2Proof.Machine

/-- A finite map as sorted pairs. -/
abbrev Store (K V : Type) := List (K × V)

/-- The order of slot numbers. -/
def natLt (a b : Nat) : Bool := decide (a < b)

/-- The order of cell addresses `d:i`: by slot, then by cell index. -/
def cellLt (a b : Nat × Nat) : Bool := decide (a.1 < b.1) || (decide (a.1 = b.1) && decide (a.2 < b.2))

/-- The value listed for a key. -/
def Store.get? {K V : Type} [DecidableEq K] : Store K V → K → Option V
  | [], _ => none
  | (k', v) :: m, k => if k = k' then some v else Store.get? m k

/-- List `v` for key `k`, replacing what was listed. -/
def Store.set {K V : Type} [DecidableEq K] (lt : K → K → Bool) (k : K) (v : V) : Store K V → Store K V
  | [] => [(k, v)]
  | (k', v') :: m =>
    if k = k' then (k, v) :: m
    else if lt k k' then (k, v) :: (k', v') :: m
    else (k', v') :: Store.set lt k v m

/-- The canonical form: keys strictly rising. -/
def Store.sorted {K V : Type} (lt : K → K → Bool) : Store K V → Bool
  | [] => true
  | (k, _) :: m => m.all (fun e => lt k e.1) && Store.sorted lt m

/-- The keys, in rising order. -/
def Store.keys {K V : Type} (m : Store K V) : List K := m.map Prod.fst

end Sys2Proof.Machine
end

