-- ==== Sys2Proof/Machine/State.lean ====
section
/-! DEFINITION. The state (R20): the block's registers, the window cells, the endpoints, the host software's state, the
configuration that no step changes, and the model's own script of environment moves. Plain data throughout. -/

namespace Sys2Proof.Machine

/-- The window cells that have been written or changed since reset, keyed by slot and cell index (R60). A cell that is not
listed has never been touched and still holds its unspecified reset contents (R56; log 4, 5). -/
abbrev Memory := Store (Nat × Nat) Word

/-- The canonical form of a memory: addresses strictly rising. An unlisted address stands for "untouched since reset",
which no listed value is, so no entry has to be left out (log 5). -/
def Memory.wf (m : Memory) : Bool := Store.sorted cellLt m

/-- The three state components of an endpoint (R48, R248). -/
structure Endpoint where
  masked   : Bool
  readable : Bool
  count    : Nat
  deriving DecidableEq, Repr

/-- The two states of a device (R173). -/
inductive DeviceState where
  | unconfigured | armed
  deriving DecidableEq, Repr

/-- The two channels of an input or indicator device (R41). -/
inductive GpioChannel where
  | ch1 | ch2
  deriving DecidableEq, Repr

/-- A move of the environment: what may happen in a gap (R83, R210 to R212, R227, R236). -/
inductive EnvStep where
  /-- The peripheral of slot `d` sets the bits of `bits` in its interrupt-status register (R210). -/
  | raiseStatus (d : Nat) (bits : Word)
  /-- The input levels of a channel change (R41, U20). -/
  | setInputs (d : Nat) (ch : GpioChannel) (level : Word)
  /-- The driver delivers, if the line is asserted and not masked (R212). -/
  | deliver (d : Nat)
  /-- The process signal sets the quit flag (R236). -/
  | quitSignal
  /-- The host's next wait call fails (R227, U21). -/
  | waitFails
  deriving DecidableEq, Repr

/-- The named delays (R9, R74). -/
inductive DelayName where
  | reackPre | reackPost | ack
  deriving DecidableEq, Repr

/-- One micro-step of the block as the other side of the bus sees it (R13, R65). -/
inductive BusEvent where
  | read (d i : Nat) (v : Word)
  | write (d i : Nat) (v : Word)
  | notify (d : Nat) (bytes : List Byte)
  | delay (T : DelayName)
  deriving DecidableEq, Repr

/-- Where the host's multiplexer stands (R225, R226, R236): before its initial action, performing it, about to block,
blocked (Idle), Servicing, or exited. -/
inductive MuxState where
  | beforeInitialAction | initialAction | aboutToBlock | idle | servicing | exited
  deriving DecidableEq, Repr

/-- One action of the host software: a line of the pseudocode of R225, R226, R228 and R231, at most one window access
each. -/
inductive HostOp where
  /-- Add N[d] to the wait set (R225). -/
  | addToWaitSet (d : Nat)
  /-- Present a command at the port and wait for its completion (R25). -/
  | command (i : Instr)
  /-- Read NOTIFY_PAYLOAD_BYTES bytes from N[d] and ignore them (R64, R73, R226). -/
  | readPayload (d : Nat)
  /-- Enter the handler of slot `d` by its kind (R226). -/
  | dispatch (d : Nat)
  /-- `v = RegRead(m, GPIO_DATA1_OFF)`, also the `a` of the switch handler (R228, R231). -/
  | readData1 (d : Nat)
  /-- `b = RegRead(s, GPIO_DATA2_OFF)` (R231). -/
  | readData2 (d : Nat)
  /-- `CNT_MOTION[m] <- CNT_MOTION[m] + 1` (R228). -/
  | countMotion (d : Nat)
  /-- `t = RegRead(IND, GPIO_DATA1_OFF)` (R228, R230). -/
  | readIndicator
  /-- `RegWrite(IND, GPIO_DATA1_OFF, t xor mask)` (R228, R230). -/
  | writeIndicator (mask : Word)
  /-- `if BTN != 0` reset both palettes (R228). -/
  | neutralIfButton
  /-- Apply the palette rule SW selects (R229). -/
  | applyPaletteRule
  /-- `SETPALETTE SILK_A, PAL[0]` (R228). -/
  | pushPalette0
  /-- `SETPALETTE SILK_B, PAL[1]` (R228). -/
  | pushPalette1
  /-- `if a != SW` (R231). -/
  | compareSwitches
  /-- `if b != BTN` (R231). -/
  | compareButtons
  deriving DecidableEq, Repr

/-- What one endpoint read moved (R64, R73): the endpoint's slot, the count that is the content, and the
NOTIFY_PAYLOAD_BYTES bytes. -/
structure Payload where
  slot  : Nat
  count : Nat
  bytes : List Byte
  deriving DecidableEq, Repr

/-- The host software's state (R52) with its control state (R225, R226). -/
structure HostSoftware where
  pal0      : Palette
  pal1      : Palette
  sw        : Word
  btn       : Word
  cntMotion : Store Nat Nat
  cntSw     : Nat
  cntBtn    : Nat
  quit      : Bool
  waitSet   : Store Nat Unit
  mux       : MuxState
  todo      : List HostOp
  tmpA      : Word
  tmpB      : Word
  tmpT      : Word
  /-- The last payload the host read; it is ignored (R73): nothing reads this field (log 35). -/
  payload   : Option Payload
  deriving DecidableEq, Repr

/-- The machine's state. -/
structure State where
  /-- The configuration (R19): fixed before reset, changed by no step (log 1). -/
  cfg       : Config
  /-- CMD (R22). -/
  cmd       : CommandWord
  /-- BUSY (R25). -/
  busy      : Bool
  /-- K: the index of the next micro-step (R26). -/
  k         : BitVec 8
  /-- ISR_LATCH (R23). -/
  isrLatch  : Word
  /-- FAILACC (R21). -/
  failAcc   : Bool
  /-- RESULT (R24, R201). -/
  result    : BitVec 2
  /-- CP: commands completed since reset (R26). -/
  cp        : Nat
  /-- The command the host presents (R25, R58). -/
  port      : Option CommandWord
  /-- The block's micro-steps so far, oldest first; the model's own record (log 16). -/
  bus       : List BusEvent
  /-- The window cells (R38 to R45). -/
  cells     : Memory
  /-- The present input levels, keyed by slot and channel number (R41). -/
  pins      : Store (Nat × Nat) Word
  /-- How many reads of unknown cells there were; the model's own counter (log 7). -/
  freeReads : Nat
  /-- The notification endpoints, keyed by slot (R48). -/
  endpoints : Store Nat Endpoint
  /-- The device states, keyed by slot (R173). -/
  devices   : Store Nat DeviceState
  /-- The script of the environment: one list of moves for each gap to come (R83; log 3). -/
  gaps      : List (List EnvStep)
  /-- A wait failure the host has not seen yet (R227; log 23). -/
  waitError : Bool
  /-- The host software (R52). -/
  host      : HostSoftware
  deriving DecidableEq, Repr

/-- How a step can stop with a fault. -/
inductive Fault where
  /-- Raised by the host software's own window accesses (`hostRead`, `hostWrite`) when the cell does not exist: the
  precondition of R66 and R67 fails. Safe: the source gives a stray access no behaviour (R70). -/
  | hostAccessOutsideWindow (d i : Nat)
  deriving DecidableEq, Repr

/-- How a step can be refused. -/
inductive Refusal where
  /-- Raised by `exec` for an instruction without a meaning (none is left). Safe. -/
  | notModelled (mnemonic : String)
  /-- Raised by `step` and by every command when the configuration violates R36 ("a model refuses an ill-formed
  configuration"). Safe. -/
  | illFormedConfiguration
  /-- Raised when a command is presented while BUSY = 1 (U12: `refuse`). Safe. -/
  | commandWhileBusy
  deriving DecidableEq, Repr

/-- The host's state at the start (R261, R263). -/
def HostSoftware.initial : HostSoftware where
  pal0 := paletteNeutral
  pal1 := paletteNeutral
  sw := 0
  btn := 0
  cntMotion := []
  cntSw := 0
  cntBtn := 0
  quit := false
  waitSet := []
  mux := .beforeInitialAction
  todo := []
  tmpA := 0
  tmpB := 0
  tmpT := 0
  payload := none

/-- The state right after reset (R55, R56, R57, R261). CMD and ISR_LATCH are free values; nothing is listed for cells,
pins and endpoints, so they read as free values too. -/
def State.reset : State where
  cfg := Config.ex1
  cmd := Config.Free.cmdAtReset
  busy := false
  k := 0
  isrLatch := Config.Free.isrLatchAtReset
  failAcc := false
  result := 0
  cp := 0
  port := none
  bus := []
  cells := []
  pins := []
  freeReads := 0
  endpoints := []
  devices := []
  gaps := []
  waitError := false
  host := HostSoftware.initial

end Sys2Proof.Machine
end

