-- ==== Sys2Proof/Machine/Flags.lean ====
section
/-! DEFINITION. The block's only status: RESULT and FAILACC (R24, R201). -/

namespace Sys2Proof.Machine

/-- The result codes (R201); code 3 is never produced. -/
inductive ResultCode where
  | ok | fail | illegal
  deriving DecidableEq, Repr

/-- The two bits of RESULT (R201). -/
def ResultCode.bits : ResultCode → BitVec 2
  | .ok => 0
  | .fail => 1
  | .illegal => 2

/-- How a command that ran its micro-steps ends: OK always, or FAIL if FAILACC is 1 (R148). -/
inductive EndCode where
  | ok | byFailAcc
  deriving DecidableEq, Repr

/-- The code of an `EndCode` in a state. -/
def EndCode.code : EndCode → State → ResultCode
  | .ok, _ => .ok
  | .byFailAcc, s => if s.failAcc then .fail else .ok

/-- `x[FAILACC] <- 1` if a sub-call failed (R148). -/
def noteFailure (failed : Bool) (s : State) : State := { s with failAcc := s.failAcc || failed }

end Sys2Proof.Machine
end

