-- ==== Sys2Proof/WellFormed.lean ====
section
/-! DEFINITION. Well-formed configurations: the nine conditions of R36, one check each, and the parameter constraints of R9
and R233. Instructions need no check: an operand's width is its type. -/

namespace Sys2Proof

namespace Config

/-- Condition (1): 2 <= N_DEV <= 256. -/
def wfDevCount (c : Config) : Bool := decide (2 ≤ c.nDev) && decide (c.nDev ≤ 256)

/-- Condition (2), and N_BANK at least 1 (R9): banks exist, are distinct and mapped. -/
def wfBanks (c : Config) : Bool :=
  decide (1 ≤ c.nBank) && c.pwmBanks.all (fun d => decide (d < c.nDev) && c.mapped d) && decide c.pwmBanks.Nodup

/-- Condition (3): every tuple's bank exists. -/
def wfChanBank (c : Config) : Bool := c.chan.all fun ch => decide (ch.bank < c.nBank)

/-- Condition (4): every tuple's duty register lies inside its bank's window. -/
def wfChanCells (c : Config) : Bool :=
  c.chan.all fun ch =>
    (c.pwmBanks[ch.bank]?).any fun d => decide (c.pwmDutyBase + ch.channelIndex.toNat < c.winCells d)

/-- Condition (5): control and period registers lie inside every bank's window. -/
def wfBankCells (c : Config) : Bool :=
  c.pwmBanks.all fun d => decide (c.pwmCtrlOff < c.winCells d) && decide (c.pwmPeriodOff < c.winCells d)

/-- Condition (6), read for the slots on which the boot order of R266 uses the two operations: CONFIGUREDEVICE on every
mapped input or indicator device, REACKNOWLEDGE on every slot of the wait set (log 15). -/
def wfGpioCells (c : Config) : Bool :=
  (List.range c.nDev).all fun d =>
    (!(c.mapped d && c.isInputOrIndicator d) ||
      [c.gpioTri1Off, c.gpioTri2Off, c.gpioIerOff, c.gpioGierOff].all (fun i => decide (i < c.winCells d))) &&
    (!c.inWaitSet d || decide (c.gpioIsrOff < c.winCells d))

/-- Condition (7): the distinctness constraints of R9. That "every i used" (of PWM_DUTY_BASE + i) means the channel indexes
of the table, and PWM_DUTY_BASE itself, and not every index a SETDUTY of the host may name, is the model's choice: DESIGN
CHOICE, safe (log 36). -/
def wfDistinct (c : Config) : Bool :=
  decide ([c.pwmCtrlOff, c.pwmPeriodOff, c.pwmDutyBase].Nodup) &&
  c.chan.all (fun ch =>
    decide (c.pwmDutyBase + ch.channelIndex.toNat ≠ c.pwmCtrlOff) &&
    decide (c.pwmDutyBase + ch.channelIndex.toNat ≠ c.pwmPeriodOff)) &&
  decide ([c.gpioData1Off, c.gpioTri1Off, c.gpioData2Off, c.gpioTri2Off,
    c.gpioGierOff, c.gpioIsrOff, c.gpioIerOff].Nodup) &&
  decide (c.ierCh1Bit ≠ c.ierCh2Bit)

/-- Condition (8): the longest command has at most 255 micro-steps. -/
def wfPlanLength (c : Config) : Bool := decide (2 * c.nBank + c.nChan ≤ 255)

/-- Condition (9): a handle comes with a window. -/
def wfHandles (c : Config) : Bool := c.dev.all fun D => !D.hasHandle || D.mapped

/-- The remaining constraints: delays longer than zero, a payload of at least one byte (R9), two different indicator bits
(R233). -/
def wfParameters (c : Config) : Bool :=
  decide (0 < c.tReackPre) && decide (0 < c.tReackPost) && decide (0 < c.tAck) &&
  decide (1 ≤ c.notifyPayloadBytes) && decide (c.swIndBit ≠ c.btnIndBit)

/-- A well-formed configuration (R36). The rules of the spec are stated for these only. -/
def wellFormed (c : Config) : Bool :=
  c.wfDevCount && c.wfBanks && c.wfChanBank && c.wfChanCells && c.wfBankCells && c.wfGpioCells &&
  c.wfDistinct && c.wfPlanLength && c.wfHandles && c.wfParameters

end Config

end Sys2Proof
end

