-- ==== Sys2Proof/Machine/Operands.lean ====
section
/-! DEFINITION. What a command's operands select: registers, legal cells (R98), tuples of the channel table (R141), and the
two formulas of the block (R140). -/

namespace Sys2Proof.Machine

/-- The registers of R38 to R45; `unknown` is a cell no rule names (R46). -/
inductive RegName where
  | pwmControl
  | pwmPeriod
  | pwmDuty (i : Nat)
  | data1
  | data2
  | tri1
  | tri2
  | ier
  | gier
  | isr
  | unknown
  deriving DecidableEq, Repr

/-- The slot is a PWM peripheral: a configured bank (R35) or a device of kind PWM (R30); log 6. -/
def isPwm (c : Config) (d : Nat) : Bool :=
  c.pwmBanks.contains d || (c.dev[d]?).any (fun D => D.kind == .pwm)

/-- The register of a PWM window at cell `i` (R38 to R40). Channel indexes are 8 bits. -/
def pwmRegAt (c : Config) (i : Nat) : RegName :=
  if i = c.pwmCtrlOff then .pwmControl
  else if i = c.pwmPeriodOff then .pwmPeriod
  else if c.pwmDutyBase ≤ i ∧ i < c.pwmDutyBase + 256 then .pwmDuty (i - c.pwmDutyBase)
  else .unknown

/-- The register of an input or indicator window at cell `i` (R41 to R45). -/
def gpioRegAt (c : Config) (i : Nat) : RegName :=
  if i = c.gpioIsrOff then .isr
  else if i = c.gpioData1Off then .data1
  else if i = c.gpioData2Off then .data2
  else if i = c.gpioTri1Off then .tri1
  else if i = c.gpioTri2Off then .tri2
  else if i = c.gpioIerOff then .ier
  else if i = c.gpioGierOff then .gier
  else .unknown

/-- Which register cell `d:i` is. A window that is not a PWM peripheral's has the registers of 10_state.md section 8
(log 6). -/
def regAt (c : Config) (d i : Nat) : RegName :=
  if isPwm c d then pwmRegAt c i else gpioRegAt c i

/-- The checks 1, 2 and 4 of R98 for one cell: the slot exists, is mapped, and the cell is inside its window. -/
def cellLegal (c : Config) (d i : Nat) : Bool :=
  decide (d < c.nDev) && c.mapped d && decide (i < c.winCells d)

/-- The checks 1 and 3 of R98 for ACKNOTIFICATION. -/
def handleLegal (c : Config) (d : Nat) : Bool := decide (d < c.nDev) && c.hasHandle d

/-- `lookup(s, t)` (R141): the first tuple, in table order, with this silk identity and colour tag. -/
def lookup (c : Config) (silk tag : Byte) : Option Channel :=
  c.chan.find? fun ch => ch.silkId == silk && ch.colorTag == tag

/-- The slot of bank `b` (R35). A well-formed configuration names only banks that exist; for another `b` the slot number
is one that does not exist. -/
def bankSlot (c : Config) (b : Nat) : Nat := (c.pwmBanks[b]?).getD c.nDev

/-- The slot and the cell index of a tuple's duty register (R124, R143). -/
def dutySlot (c : Config) (ch : Channel) : Nat := bankSlot c ch.bank
def dutyCell (c : Config) (ch : Channel) : Nat := c.pwmDutyBase + ch.channelIndex.toNat

/-- `pctOf` (R140): an 8-bit component as a per-mille percent. -/
def pctOf (x : Byte) : Percent := BitVec.ofNat 16 (x.toNat * percentScale / paletteMax)

/-- `dutyOf` (R140): the exact product, divided by 1000, reduced to 32 bits. -/
def dutyOf (p : Percent) (M : Word) : Word := BitVec.ofNat 32 (p.toNat * M.toNat / percentScale)

/-- The word with bit `n` set alone. -/
def oneBit (n : Fin 32) : Word := 1#32 <<< n.val

/-- The word ENABLE stores (R125). -/
def runWord (c : Config) : Word := oneBit c.pwmRunBit

/-- The derived Booleans of R171. -/
def track1 (D : Device) : Bool := D.enable1 && !D.output1 && D.hasIrq
def track2 (D : Device) : Bool := D.enable2 && !D.output2 && D.hasIrq

/-- The tristate word of a channel, from its output flag alone (R172). -/
def triWord (output : Bool) : Word := if output then triDrive else triInput

/-- The interrupt-enable word (R172). -/
def ierWord (c : Config) (D : Device) : Word :=
  (if track1 D then oneBit c.ierCh1Bit else 0) ||| (if track2 D then oneBit c.ierCh2Bit else 0)

/-- The global-interrupt-enable word: the top bit alone, or 0 (R172). -/
def gierWord (D : Device) : Word :=
  if track1 D || track2 D then 1#32 <<< gierTopBit else 0

end Sys2Proof.Machine
end

