-- ==== Sys2Proof/Machine/Ops.lean ====
section
/-! DEFINITION. The shared operations: cells and registers, bus accesses, endpoints, the environment's moves, and the life
of a command (acceptance, micro-steps, completion or `raise`). -/

namespace Sys2Proof.Machine

/-! ### Cells, pins, endpoints, device states -/

/-- The contents of cell `d:i`; an untouched cell holds its free reset contents (R56). -/
def State.cell (s : State) (d i : Nat) : Word :=
  (Store.get? s.cells (d, i)).getD (Config.Free.cellAtReset d i)

def State.setCell (s : State) (d i : Nat) (v : Word) : State :=
  { s with cells := Store.set cellLt (d, i) v s.cells }

/-- The number of a channel. -/
def GpioChannel.number : GpioChannel → Nat
  | .ch1 => 1
  | .ch2 => 2

/-- The present input levels of a channel (R41). -/
def State.pin (s : State) (d : Nat) (ch : GpioChannel) : Word :=
  (Store.get? s.pins (d, ch.number)).getD (Config.Free.pinsAtReset d ch.number)

def State.setPin (s : State) (d : Nat) (ch : GpioChannel) (v : Word) : State :=
  { s with pins := Store.set cellLt (d, ch.number) v s.pins }

/-- The endpoint N[d] (R48); an untouched endpoint holds its free reset values (R213). -/
def State.endpoint (s : State) (d : Nat) : Endpoint :=
  (Store.get? s.endpoints d).getD
    ⟨Config.Free.maskedAtReset d, Config.Free.readableAtReset d, Config.Free.countAtReset d⟩

def State.setEndpoint (s : State) (d : Nat) (e : Endpoint) : State :=
  { s with endpoints := Store.set natLt d e s.endpoints }

/-- The device state of a slot (R173, R261). -/
def State.deviceState (s : State) (d : Nat) : DeviceState := (Store.get? s.devices d).getD .unconfigured

def State.setDeviceState (s : State) (d : Nat) (x : DeviceState) : State :=
  { s with devices := Store.set natLt d x s.devices }

/-! ### Bus accesses (R66, R67, R68) -/

/-- What the peripheral presents for a data register: the written value on output bits, the input level on input bits,
by the channel's tristate register (R41, R42; log 8). -/
def dataValue (tri latch level : Word) : Word := (latch &&& ~~~tri) ||| (level &&& tri)

/-- The value a read of cell `d:i` returns (R66, R68). -/
def readValue (s : State) (d i : Nat) : Word :=
  match regAt s.cfg d i with
  | .data1 => dataValue (s.cell d s.cfg.gpioTri1Off) (s.cell d i) (s.pin d .ch1)
  | .data2 => dataValue (s.cell d s.cfg.gpioTri2Off) (s.cell d i) (s.pin d .ch2)
  | .unknown => Config.Free.unknownCell d i s.freeReads
  | _ => s.cell d i

/-- A read leaves every register alone (R68); a read of an unknown cell uses up one free value (log 7). -/
def afterRead (s : State) (d i : Nat) : State :=
  if regAt s.cfg d i = .unknown then { s with freeReads := s.freeReads + 1 } else s

/-- What a register holds after a write of `v`, given what it held (R45, R68). -/
def written (r : RegName) (old v : Word) : Word :=
  match r with
  | .isr => old &&& ~~~v
  | .unknown => old
  | _ => v

/-- `MemWrite(d:i, 4, v)` (R67): the register's own reaction. -/
def memWrite (d i : Nat) (v : Word) (s : State) : State :=
  if regAt s.cfg d i = .unknown then s
  else s.setCell d i (written (regAt s.cfg d i) (s.cell d i) v)

/-- `NotifyWrite(d, 01 00 00 00)` (R72, R214): the line is unmasked, nothing else changes. -/
def notifyWrite (d : Nat) (s : State) : State :=
  s.setEndpoint d { s.endpoint d with masked := false }

/-- The payload an endpoint read moves (R64, R73): NOTIFY_PAYLOAD_BYTES bytes whose content is `count`. Which bytes stand for
which count is free (U10; log 35). -/
def payloadOf (c : Config) (d count : Nat) : Payload :=
  ⟨d, count, (List.range c.notifyPayloadBytes).map (Config.Free.payloadByte c.notifyPayloadBytes count)⟩

/-- The host's read of N[d] (R73): it takes the payload and clears `readable`; `masked` and `count` stay. -/
def notifyRead (d : Nat) (s : State) : Payload × State :=
  (payloadOf s.cfg d (s.endpoint d).count, s.setEndpoint d { s.endpoint d with readable := false })

/-! ### The environment (R83, R210 to R212) -/

/-- The interrupt line of slot `d` (R211). -/
def lineAsserted (s : State) (d : Nat) : Bool :=
  (s.cell d s.cfg.gpioGierOff).getLsbD gierTopBit &&
  (s.cell d s.cfg.gpioIsrOff &&& s.cell d s.cfg.gpioIerOff) != 0

/-- The peripheral of slot `d` has an interrupt-status register: a mapped window that is no PWM peripheral's and holds
the cell (log 21). -/
def hasStatus (c : Config) (d : Nat) : Bool :=
  cellLegal c d c.gpioIsrOff && !isPwm c d

/-- One move of the environment. -/
def envStep (e : EnvStep) (s : State) : State :=
  match e with
  | .raiseStatus d bits =>
    if hasStatus s.cfg d then s.setCell d s.cfg.gpioIsrOff (s.cell d s.cfg.gpioIsrOff ||| bits) else s
  | .setInputs d ch level => s.setPin d ch level
  | .deliver d =>
    if s.cfg.hasHandle d && hasStatus s.cfg d && lineAsserted s d && !(s.endpoint d).masked then
      s.setEndpoint d ⟨true, true, (s.endpoint d).count + 1⟩
    else s
  | .quitSignal => { s with host := { s.host with quit := true } }
  | .waitFails => { s with waitError := true }

/-- Several moves, in order. -/
def envSteps : List EnvStep → State → State
  | [], s => s
  | e :: es, s => envSteps es (envStep e s)

/-- One gap (R83): the next list of the script, if there is one. -/
def envGap (s : State) : State :=
  match s.gaps with
  | [] => s
  | g :: gs => envSteps g { s with gaps := gs }

/-! ### Micro-steps (R13, R25, R26) -/

/-- The block's micro-steps. -/
inductive MicroOp where
  /-- `MemWrite(d:i, 4, v)`. -/
  | write (d i : Nat) (v : Word)
  /-- `x[ISR_LATCH] <- MemRead(d:GPIO_ISR_OFF, 4)` (R176). -/
  | readStatus (d : Nat)
  /-- `MemWrite(d:GPIO_ISR_OFF, 4, x[ISR_LATCH])` (R176). -/
  | writeLatch (d : Nat)
  /-- `NotifyWrite(d, 01 00 00 00)` (R181). -/
  | notify (d : Nat)
  /-- `Delay(T)` (R74). -/
  | delay (T : DelayName)
  deriving DecidableEq, Repr

/-- Record a micro-step (log 16). -/
def record (e : BusEvent) (s : State) : State := { s with bus := s.bus ++ [e] }

/-- The effect of a micro-step on the registers, the windows and the endpoints. -/
def microEffect (m : MicroOp) (s : State) : State :=
  match m with
  | .write d i v => record (.write d i v) (memWrite d i v s)
  | .readStatus d =>
    record (.read d s.cfg.gpioIsrOff (readValue s d s.cfg.gpioIsrOff))
      { afterRead s d s.cfg.gpioIsrOff with isrLatch := readValue s d s.cfg.gpioIsrOff }
  | .writeLatch d =>
    record (.write d s.cfg.gpioIsrOff s.isrLatch) (memWrite d s.cfg.gpioIsrOff s.isrLatch s)
  | .notify d => record (.notify d ackBytes) (notifyWrite d s)
  | .delay T => record (.delay T) s

/-- A micro-step of a command, with the failed sub-calls that come before it (only SETPALETTE has any). -/
structure MicroStep where
  failedBefore : Bool
  op           : MicroOp
  deriving DecidableEq, Repr

/-- What a legal command does: its micro-steps in order, whether a sub-call failed after the last of them, how it ends,
and the device it arms. -/
structure Plan where
  steps       : List MicroStep
  failedAfter : Bool
  ending      : EndCode
  arms        : Option Nat
  deriving DecidableEq, Repr

/-- The beginning of a command: a `raise` before the first micro-step (R98, R143), or a plan. -/
inductive Start where
  | raise (c : ResultCode)
  | run (p : Plan)
  deriving DecidableEq, Repr

/-- The plan of a command that always ends with OK. -/
def planOk (ops : List MicroOp) : Plan := ⟨ops.map (⟨false, ·⟩), false, .ok, none⟩

/-- One micro-step: the environment's gap (R83), the effect, and K <- K + 1 (R26). -/
def doMicro (m : MicroStep) (s : State) : State :=
  let t := microEffect m.op (envGap (noteFailure m.failedBefore s))
  { t with k := t.k + 1 }

/-- All micro-steps of a command, in order (R78). -/
def doMicros : List MicroStep → State → State
  | [], s => s
  | m :: ms, s => doMicros ms (doMicro m s)

/-! ### Acceptance and completion (R25, R201) -/

/-- Acceptance of the command word `w`. -/
def accept (w : CommandWord) (s : State) : State :=
  { s with cmd := w, k := 0, failAcc := false, busy := true }

/-- Completion with a result code. A `raise` is this and nothing more: nothing is saved and control goes nowhere
(R200, R201). -/
def complete (c : ResultCode) (s : State) : State :=
  { s with result := c.bits, busy := false, k := 0, cp := s.cp + 1 }

/-- The device a CONFIGUREDEVICE arms (R173). -/
def armDevice (a : Option Nat) (s : State) : State :=
  match a with
  | none => s
  | some d => s.setDeviceState d .armed

/-- The end of a command that ran all its micro-steps. -/
def finish (p : Plan) (s : State) : State :=
  let t := armDevice p.arms (noteFailure p.failedAfter s)
  complete (p.ending.code t) t

/-- A command from its acceptance on. -/
def runStart (st : Start) (s : State) : State :=
  match st with
  | .raise c => complete c s
  | .run p => finish p (doMicros p.steps s)

/-- A whole command: accepted, run to completion (R25). Refused for an ill-formed configuration (R36) and for a command
presented while the block is busy (U12). -/
def runCommand (w : CommandWord) (st : Start) (s : State) : Host.Outcome State Fault Refusal :=
  if s.cfg.wellFormed = false then .refused .illFormedConfiguration
  else if s.busy then .refused .commandWhileBusy
  else .next (runStart st (accept w s))

end Sys2Proof.Machine
end

