-- ==== Sys2Proof/Machine/ColorModel.lean ====
section
/-! DEFINITION. SETLEDPERCENT, SETPALETTE, ALLLEDSOFF (41_color_model.md). -/

namespace Sys2Proof.Machine

/-- The write of a duty to a tuple's register (R124, R143). -/
def dutyWrite (c : Config) (ch : Channel) (duty : Word) : MicroOp :=
  .write (dutySlot c ch) (dutyCell c ch) duty

/-- R143: FAIL without an access when no tuple matches. -/
def planSetLedPercent (c : Config) (silk tag : Byte) (percent : Percent) : Start :=
  match lookup c silk tag with
  | none => .raise .fail
  | some ch => .run (planOk [dutyWrite c ch (dutyOf percent ch.maxDuty)])

/-- One sub-call of SETPALETTE (R148): the write of one colour, or nothing when its pair has no tuple. -/
def paletteSubCall (c : Config) (silk tag x : Byte) : Option MicroOp :=
  (lookup c silk tag).map fun ch => dutyWrite c ch (dutyOf (pctOf x) ch.maxDuty)

/-- The plan of a sequence of sub-calls, none of which stops the others (R149); `pending` says that a sub-call has failed
since the last micro-step. -/
def subCallPlan : Bool → List (Option MicroOp) → Plan
  | pending, [] => ⟨[], pending, .byFailAcc, none⟩
  | _, none :: rest => subCallPlan true rest
  | pending, some op :: rest =>
    let p := subCallPlan false rest
    { p with steps := ⟨pending, op⟩ :: p.steps }

/-- R148: red, green, blue, in this order. -/
def planSetPalette (c : Config) (silk r g b : Byte) : Start :=
  .run (subCallPlan false
    [paletteSubCall c silk tagRed r, paletteSubCall c silk tagGreen g, paletteSubCall c silk tagBlue b])

/-- R152: phase 1 periods, phase 2 duties in table order, phase 3 enables (R154). -/
def planAllLedsOff (c : Config) : Start :=
  .run (planOk (
    c.pwmBanks.map (fun d => .write d c.pwmPeriodOff c.pwmPeriod) ++
    c.chan.map (fun ch => dutyWrite c ch 0) ++
    c.pwmBanks.map (fun d => .write d c.pwmCtrlOff (runWord c))))

/-- SETLEDPERCENT (R143). -/
def execSetLedPercent (silk tag : Byte) (percent : Percent) (s : State) : Host.Outcome State Fault Refusal :=
  runCommand (encode (.setLedPercent silk tag percent)) (planSetLedPercent s.cfg silk tag percent) s

/-- SETPALETTE (R148). -/
def execSetPalette (silk r g b : Byte) (s : State) : Host.Outcome State Fault Refusal :=
  runCommand (encode (.setPalette silk r g b)) (planSetPalette s.cfg silk r g b) s

/-- ALLLEDSOFF (R152). -/
def execAllLedsOff (s : State) : Host.Outcome State Fault Refusal :=
  runCommand (encode .allLedsOff) (planAllLedsOff s.cfg) s

end Sys2Proof.Machine
end

