-- ==== Sys2Proof/Machine/InterruptController.lean ====
section
/-! DEFINITION. CONFIGUREDEVICE, REACKNOWLEDGE, ACKNOTIFICATION (42_interrupt_rearm.md). -/

namespace Sys2Proof.Machine

/-- The four writes of CONFIGUREDEVICE, in order (R172). -/
def configureWrites (c : Config) (d : Nat) (D : Device) : List MicroOp :=
  [.write d c.gpioTri1Off (triWord D.output1),
   .write d c.gpioTri2Off (triWord D.output2),
   .write d c.gpioIerOff (ierWord c D),
   .write d c.gpioGierOff (gierWord D)]

/-- R172, with the checks of R98 on all four cells. -/
def planConfigureDevice (c : Config) (dev : Byte) : Start :=
  match c.dev[dev.toNat]? with
  | none => .raise .illegal
  | some D =>
    if [c.gpioTri1Off, c.gpioTri2Off, c.gpioIerOff, c.gpioGierOff].all (cellLegal c dev.toNat) then
      .run { planOk (configureWrites c dev.toNat D) with arms := some dev.toNat }
    else .raise .illegal

/-- R176: delay, read, write back, delay (R178). -/
def planReacknowledge (c : Config) (dev : Byte) : Start :=
  if cellLegal c dev.toNat c.gpioIsrOff then
    .run (planOk [.delay .reackPre, .readStatus dev.toNat, .writeLatch dev.toNat, .delay .reackPost])
  else .raise .illegal

/-- R181: the 4-byte write, then a delay. -/
def planAckNotification (c : Config) (dev : Byte) : Start :=
  if handleLegal c dev.toNat then .run (planOk [.notify dev.toNat, .delay .ack]) else .raise .illegal

/-- CONFIGUREDEVICE (R172). -/
def execConfigureDevice (dev : Byte) (s : State) : Host.Outcome State Fault Refusal :=
  runCommand (encode (.configureDevice dev)) (planConfigureDevice s.cfg dev) s

/-- REACKNOWLEDGE (R176). -/
def execReacknowledge (dev : Byte) (s : State) : Host.Outcome State Fault Refusal :=
  runCommand (encode (.reacknowledge dev)) (planReacknowledge s.cfg dev) s

/-- ACKNOTIFICATION (R181). -/
def execAckNotification (dev : Byte) (s : State) : Host.Outcome State Fault Refusal :=
  runCommand (encode (.ackNotification dev)) (planAckNotification s.cfg dev) s

end Sys2Proof.Machine
end

