-- ==== Sys2Proof/Machine/PwmController.lean ====
section
/-! DEFINITION. SETPERIOD, SETDUTY, ENABLE, DISABLE (40_pwm_controller.md). Each is one unconditional register store (R120). -/

namespace Sys2Proof.Machine

/-- One store, if the cell is legal (R98). -/
def planStore (c : Config) (d i : Nat) (v : Word) : Start :=
  if cellLegal c d i then .run (planOk [.write d i v]) else .raise .illegal

/-- R121. -/
def planSetPeriod (c : Config) (dev : Byte) (count : Word) : Start :=
  planStore c dev.toNat c.pwmPeriodOff count

/-- R123. The sum is a natural-number sum, without wrap-around. -/
def planSetDuty (c : Config) (dev : Byte) (count : Word) (idx : Byte) : Start :=
  planStore c dev.toNat (c.pwmDutyBase + idx.toNat) count

/-- R125: a store of the run bit alone, not an inversion (R126). -/
def planEnable (c : Config) (dev : Byte) : Start := planStore c dev.toNat c.pwmCtrlOff (runWord c)

/-- R127. -/
def planDisable (c : Config) (dev : Byte) : Start := planStore c dev.toNat c.pwmCtrlOff 0

/-- SETPERIOD (R121). -/
def execSetPeriod (dev : Byte) (count : Word) (s : State) : Host.Outcome State Fault Refusal :=
  runCommand (encode (.setPeriod dev count)) (planSetPeriod s.cfg dev count) s

/-- SETDUTY (R123). -/
def execSetDuty (dev : Byte) (count : Word) (idx : Byte) (s : State) : Host.Outcome State Fault Refusal :=
  runCommand (encode (.setDuty dev count idx)) (planSetDuty s.cfg dev count idx) s

/-- ENABLE (R125). -/
def execEnable (dev : Byte) (s : State) : Host.Outcome State Fault Refusal :=
  runCommand (encode (.enable dev)) (planEnable s.cfg dev) s

/-- DISABLE (R127). -/
def execDisable (dev : Byte) (s : State) : Host.Outcome State Fault Refusal :=
  runCommand (encode (.disable dev)) (planDisable s.cfg dev) s

end Sys2Proof.Machine
end

