-- ==== Sys2Proof/Machine/Dispatch.lean ====
section
/-! DEFINITION. One arm per command (R5). -/

namespace Sys2Proof.Machine

def exec (i : Instr) (s : State) : Host.Outcome State Fault Refusal :=
  match i with
  | .setPeriod dev count => Sys2Proof.Machine.execSetPeriod dev count s
  | .setDuty dev count idx => Sys2Proof.Machine.execSetDuty dev count idx s
  | .enable dev => Sys2Proof.Machine.execEnable dev s
  | .disable dev => Sys2Proof.Machine.execDisable dev s
  | .setLedPercent silk tag percent => Sys2Proof.Machine.execSetLedPercent silk tag percent s
  | .setPalette silk r g b => Sys2Proof.Machine.execSetPalette silk r g b s
  | .allLedsOff => Sys2Proof.Machine.execAllLedsOff s
  | .configureDevice dev => Sys2Proof.Machine.execConfigureDevice dev s
  | .reacknowledge dev => Sys2Proof.Machine.execReacknowledge dev s
  | .ackNotification dev => Sys2Proof.Machine.execAckNotification dev s

end Sys2Proof.Machine
end

