-- ==== Sys2Proof/Machine/Micro.lean ====
section
/-! DEFINITION. The block one micro-step at a time (R25, R26, R83): the machine of the command in flight, which (CP, K)
names. A whole command (`exec`) is the run of these steps to completion (log 2, 33). -/

namespace Sys2Proof.Machine

/-- What each command does (R5). -/
def planOf (c : Config) : Instr → Start
  | .setPeriod dev count => planSetPeriod c dev count
  | .setDuty dev count idx => planSetDuty c dev count idx
  | .enable dev => planEnable c dev
  | .disable dev => planDisable c dev
  | .setLedPercent silk tag percent => planSetLedPercent c silk tag percent
  | .setPalette silk r g b => planSetPalette c silk r g b
  | .allLedsOff => planAllLedsOff c
  | .configureDevice dev => planConfigureDevice c dev
  | .reacknowledge dev => planReacknowledge c dev
  | .ackNotification dev => planAckNotification c dev

/-- What the word in CMD does; a word that is no command raises ILLEGAL (R97). -/
def startOfWord (c : Config) (w : CommandWord) : Start :=
  match decode w with
  | .ok i => planOf c i
  | .error _ => .raise .illegal

/-- The micro-step K of the command in CMD; the last one completes the command (R25). -/
def microStep (s : State) : State :=
  match startOfWord s.cfg s.cmd with
  | .raise c => complete c s
  | .run p =>
    match p.steps[s.k.toNat]? with
    | none => finish p s
    | some m => if s.k.toNat + 1 = p.steps.length then finish p (doMicro m s) else doMicro m s

/-- `n` micro-steps. -/
def microSteps : Nat → State → State
  | 0, s => s
  | n + 1, s => microSteps n (microStep s)

/-- A word that is no command: accepted and completed with ILLEGAL, with no access (R97, R203). -/
def runIllegalWord (w : CommandWord) (s : State) : Host.Outcome State Fault Refusal :=
  runCommand w (.raise .illegal) s

end Sys2Proof.Machine
end

