-- ==== Sys2Proof/Machine/Multiplexer.lean ====
section
/-! DEFINITION. The host software: boot order (R266), Event Multiplexer (R225, R226, R227), Reactive Handler (R228 to R231),
cancellation (R236). It issues the block's commands through the port and makes its own window accesses. -/

namespace Sys2Proof.Machine

/-- A palette component after adding `delta`, under the overflow policy (R234). -/
def addComponent (a : PaletteArith) (x : Byte) (delta : Int) : Byte :=
  match a with
  | .wrap => BitVec.ofInt 8 (x.toNat + delta)
  | .saturate => BitVec.ofInt 8 (max 0 (min 255 (x.toNat + delta)))

/-- The palettes after the rule that `sw` selects, first match wins (R219, R229). Rule 0x1 is the one the source lets be
recovered; the others are uninterpreted (U18). -/
def paletteRuleFor (a : PaletteArith) (sw : Word) (p0 p1 : Palette) : Palette × Palette :=
  if sw.getLsbD 0 then ({ p0 with r := addComponent a p0.r 32 }, { p1 with b := addComponent a p1.b (-32) })
  else if sw.getLsbD 1 then Config.Free.paletteRule .bit2 p0 p1
  else if sw.getLsbD 2 then Config.Free.paletteRule .bit4 p0 p1
  else if sw.getLsbD 3 then Config.Free.paletteRule .bit8 p0 p1
  else (p0, p1)

/-- A slot number as a command's selector. Slots are below 256 (R36 (1)). -/
def slotByte (d : Nat) : Byte := BitVec.ofNat 8 d

/-- REACKNOWLEDGE and ACKNOTIFICATION of a slot (R102), as host actions. -/
def rearmOps (d : Nat) : List HostOp := (rearm (slotByte d)).map .command

/-- The slots with a property, in slot order. -/
def slotsWith (c : Config) (p : Nat → Bool) : List Nat := (List.range c.nDev).filter p

/-- Steps 3, 4 and 5 of R266: configure every mapped input or indicator device, switch the LEDs off, add every source to
the wait set and re-arm it (R225). -/
def bootOps (c : Config) : List HostOp :=
  (slotsWith c fun d => c.mapped d && c.isInputOrIndicator d).map (fun d => .command (.configureDevice (slotByte d))) ++
  [.command .allLedsOff] ++
  (slotsWith c c.inWaitSet).flatMap fun d => .addToWaitSet d :: rearmOps d

/-- The motion handler (R228). -/
def motionOps (d : Nat) : List HostOp :=
  .readData1 d :: rearmOps d ++
  [.countMotion d, .readIndicator, .writeIndicator motionIndMask, .neutralIfButton, .applyPaletteRule,
   .pushPalette0, .pushPalette1]

/-- The switch/button handler (R231). -/
def switchOps (d : Nat) : List HostOp :=
  [.readData1 d, .readData2 d] ++ rearmOps d ++ [.compareSwitches, .compareButtons]

/-- The handler of a slot by its kind (R226); a slot of another kind has none (log 24). -/
def handlerOps (c : Config) (d : Nat) : List HostOp :=
  match (c.dev[d]?).map Device.kind with
  | some .motion => motionOps d
  | some .swbtn => switchOps d
  | _ => []

/-- A toggle of one indicator bit (R230, R231). -/
def toggleOps (bit : Fin 32) : List HostOp := [.readIndicator, .writeIndicator (oneBit bit)]

def State.withHost (s : State) (h : HostSoftware) : State := { s with host := h }

/-- The host puts a command on the port (R25). -/
def presentCommand (i : Instr) (s : State) : State := { s with port := some (encode i) }

/-- A window read by the host (R66, R84), with what is done with the value; the cell must exist. -/
def hostRead (d i : Nat) (k : Word → State → State) (s : State) : Host.Outcome State Fault Refusal :=
  if cellLegal s.cfg d i then .next (k (readValue s d i) (afterRead s d i))
  else .fault (.hostAccessOutsideWindow d i)

/-- A window write by the host (R67, R84). -/
def hostWrite (d i : Nat) (v : Word) (s : State) : Host.Outcome State Fault Refusal :=
  if cellLegal s.cfg d i then .next (memWrite d i v s) else .fault (.hostAccessOutsideWindow d i)

/-- One event of motion slot `d` more (R228). -/
def bumpMotion (d : Nat) (h : HostSoftware) : HostSoftware :=
  { h with cntMotion := Store.set natLt d ((Store.get? h.cntMotion d).getD 0 + 1) h.cntMotion }

/-- The host reads the payload of N[d] and ignores it (R73, R226): the bytes come into a buffer nothing reads. -/
def takePayload (d : Nat) (s : State) : State :=
  let r := notifyRead d s
  r.2.withHost { s.host with payload := some r.1 }

/-- The host action `op`, already taken off the work list. -/
def hostOp (op : HostOp) (s : State) : Host.Outcome State Fault Refusal :=
  match op with
  | .addToWaitSet d => .next (s.withHost { s.host with waitSet := Store.set natLt d () s.host.waitSet })
  | .command i => .next (presentCommand i s)
  | .readPayload d => .next (takePayload d s)
  | .dispatch d => .next (s.withHost { s.host with todo := handlerOps s.cfg d ++ s.host.todo })
  | .readData1 d => hostRead d s.cfg.gpioData1Off (fun v t => t.withHost { t.host with tmpA := v }) s
  | .readData2 d => hostRead d s.cfg.gpioData2Off (fun v t => t.withHost { t.host with tmpB := v }) s
  | .countMotion d => .next (s.withHost (bumpMotion d s.host))
  | .readIndicator => hostRead indSlot s.cfg.gpioData1Off (fun v t => t.withHost { t.host with tmpT := v }) s
  | .writeIndicator mask => hostWrite indSlot s.cfg.gpioData1Off (s.host.tmpT ^^^ mask) s
  | .neutralIfButton =>
    .next (if s.host.btn = 0 then s else s.withHost { s.host with pal0 := paletteNeutral, pal1 := paletteNeutral })
  | .applyPaletteRule =>
    let p := paletteRuleFor s.cfg.paletteArith s.host.sw s.host.pal0 s.host.pal1
    .next (s.withHost { s.host with pal0 := p.1, pal1 := p.2 })
  | .pushPalette0 => .next (presentCommand (.setPalette s.cfg.silkA s.host.pal0.r s.host.pal0.g s.host.pal0.b) s)
  | .pushPalette1 => .next (presentCommand (.setPalette s.cfg.silkB s.host.pal1.r s.host.pal1.g s.host.pal1.b) s)
  | .compareSwitches =>
    .next (if s.host.tmpA = s.host.sw then s
      else s.withHost { s.host with
        sw := s.host.tmpA, cntSw := s.host.cntSw + 1, todo := toggleOps s.cfg.swIndBit ++ s.host.todo })
  | .compareButtons =>
    .next (if s.host.tmpB = s.host.btn then s
      else s.withHost { s.host with
        btn := s.host.tmpB, cntBtn := s.host.cntBtn + 1, todo := toggleOps s.cfg.btnIndBit ++ s.host.todo })

/-- The readable handles of the wait set, in increasing slot order (R217, R226). -/
def readySlots (s : State) : List Nat := (Store.keys s.host.waitSet).filter fun d => (s.endpoint d).readable

/-- Normal shutdown: the handles are closed, no command is issued (R236; log 30). -/
def shutdown (s : State) : State := s.withHost { s.host with mux := .exited, waitSet := [], todo := [] }

/-- The wait call of R226, and the test of the quit flag after it. With nothing readable, no failure and no quit signal
the host stays blocked (Idle). -/
def waitStep (s : State) : State :=
  if s.host.quit then shutdown s
  else if s.waitError then { s with waitError := false, host := { s.host with mux := .aboutToBlock } }
  else if (readySlots s).isEmpty then s
  else s.withHost { s.host with
    mux := .servicing, todo := (readySlots s).flatMap fun d => [.readPayload d, .dispatch d] }

/-- The multiplexer's move when its work list is empty (R225, R226). -/
def muxStep (s : State) : State :=
  match s.host.mux with
  | .beforeInitialAction => s.withHost { s.host with mux := .initialAction, todo := bootOps s.cfg }
  | .initialAction => s.withHost { s.host with mux := .aboutToBlock }
  | .aboutToBlock => if s.host.quit then shutdown s else s.withHost { s.host with mux := .idle }
  | .idle => waitStep s
  | .servicing => s.withHost { s.host with mux := .aboutToBlock }
  | .exited => s

/-- One move of the host software. -/
def hostStep (s : State) : Host.Outcome State Fault Refusal :=
  match s.host.todo with
  | op :: rest => hostOp op (s.withHost { s.host with todo := rest })
  | [] => .next (muxStep s)

end Sys2Proof.Machine
end

