-- ==== Sys2Proof/Machine/Step.lean ====
section
/-! DEFINITION. One step of the machine. BUSY = 1: the next micro-step of the command in flight. Otherwise a presented
command is accepted and run to completion; with no command presented the host software moves, after one gap of the
environment. -/

namespace Sys2Proof.Machine

/-- The command word at the port, run (R25). -/
def runPortWord (w : CommandWord) (s : State) : Host.Outcome State Fault Refusal :=
  match decode w with
  | .ok i => exec i s
  | .error _ => runIllegalWord w s

/-- One step. -/
def step (s : State) : Host.Outcome State Fault Refusal :=
  if s.cfg.wellFormed = false then .refused .illFormedConfiguration
  else
    match s.busy, s.port with
    | true, some _ => .refused .commandWhileBusy
    | true, none => .next (microStep s)
    | false, some w => runPortWord w { s with port := none }
    | false, none => hostStep (envGap s)

/-- The state `s` with a command presented where `step` takes its next one: on the port of an idle block (log 18). -/
def State.withFetchWord (s : State) (nbits w : Nat) : State :=
  { s with port := some (BitVec.ofNat 64 (w % 2 ^ nbits)), busy := false }

end Sys2Proof.Machine
end

