-- ==== Sys2Proof/Safety.lean ====
section
/-! DEFINITION. The terms claims use: when a command may be presented, the checks of R98 spelled out, what a command and the
environment leave alone, and the invariants of the machine. -/

namespace Sys2Proof.Machine

/-- The block can take a command: the configuration is well-formed (R36) and BUSY = 0 (R25). -/
abbrev Ready (s : State) : Prop := s.cfg.wellFormed = true ∧ s.busy = false

/-- The slot exists, is mapped, and its window has cell `i` (R98 checks 1, 2, 4). -/
abbrev InWindow (c : Config) (d i : Nat) : Prop := d < c.nDev ∧ c.mapped d = true ∧ i < c.winCells d

/-- A check of R98 fails for the command. -/
def FailsChecks (c : Config) : Instr → Prop
  | .setPeriod dev _ => ¬ InWindow c dev.toNat c.pwmPeriodOff
  | .setDuty dev _ idx => ¬ InWindow c dev.toNat (c.pwmDutyBase + idx.toNat)
  | .enable dev => ¬ InWindow c dev.toNat c.pwmCtrlOff
  | .disable dev => ¬ InWindow c dev.toNat c.pwmCtrlOff
  | .setLedPercent _ _ _ => False
  | .setPalette _ _ _ _ => False
  | .allLedsOff => False
  | .configureDevice dev =>
    ¬ (InWindow c dev.toNat c.gpioTri1Off ∧ InWindow c dev.toNat c.gpioTri2Off ∧
       InWindow c dev.toNat c.gpioIerOff ∧ InWindow c dev.toNat c.gpioGierOff)
  | .reacknowledge dev => ¬ InWindow c dev.toNat c.gpioIsrOff
  | .ackNotification dev => ¬ (dev.toNat < c.nDev ∧ c.hasHandle dev.toNat = true)

/-- A colour pair of the command has no tuple (R202). -/
def MissesATuple (c : Config) : Instr → Prop
  | .setLedPercent silk tag _ => lookup c silk tag = none
  | .setPalette silk _ _ _ =>
    lookup c silk tagRed = none ∨ lookup c silk tagGreen = none ∨ lookup c silk tagBlue = none
  | _ => False

/-- The block's registers after the command word `w` has completed with the code `code` (R25, R26, R201). -/
structure Completed (w : CommandWord) (code : BitVec 2) (s t : State) : Prop where
  cmd    : t.cmd = w
  busy   : t.busy = false
  k      : t.k = 0
  result : t.result = code
  cp     : t.cp = s.cp + 1

/-- The host software's state is as before, but that the process signal may have set the quit flag (R18, R236). -/
def HostKept (s t : State) : Prop :=
  t.host = { s.host with quit := t.host.quit } ∧ (s.host.quit = true → t.host.quit = true)

/-- The endpoint of slot `d` is as before, or the driver delivered to it once, which masks it (R212). -/
def KeptOrDelivered (s t : State) (d : Nat) : Prop :=
  t.endpoint d = s.endpoint d ∨
  (s.cfg.hasHandle d = true ∧ (s.endpoint d).masked = false ∧
    t.endpoint d = ⟨true, true, (s.endpoint d).count + 1⟩)

/-- What is left alone from `s` to `t`, outside the cells `P` and the endpoints `N`: everything but what the environment
itself changes in its gaps. Registers other than interrupt-status registers keep their contents; a status register only
gains bits (R210); endpoints change by delivery alone. In a quiet environment (no moves in the script) every cell, pin and
endpoint is as before. -/
structure Frame (P : Nat → Nat → Prop) (N : Nat → Prop) (s t : State) : Prop where
  cfg       : t.cfg = s.cfg
  port      : t.port = s.port
  host      : HostKept s t
  cells     : ∀ d i, ¬ P d i → regAt s.cfg d i ≠ .isr → t.cell d i = s.cell d i
  status    : ∀ d i, ¬ P d i → s.cell d i &&& t.cell d i = s.cell d i
  endpoints : ∀ d, ¬ N d → KeptOrDelivered s t d
  quiet     : s.gaps = [] →
    t.gaps = [] ∧ t.pins = s.pins ∧ t.waitError = s.waitError ∧ t.host = s.host ∧
    (∀ d i, ¬ P d i → t.cell d i = s.cell d i) ∧ (∀ d, ¬ N d → t.endpoint d = s.endpoint d)

/-- No cell, no endpoint. -/
abbrev NoCell : Nat → Nat → Prop := fun _ _ => False
abbrev NoEndpoint : Nat → Prop := fun _ => False

/-- ISR_LATCH, the device states and the model's read counter are as before: no register beyond those of acceptance and
completion is written. -/
structure LatchesKept (s t : State) : Prop where
  isrLatch  : t.isrLatch = s.isrLatch
  devices   : t.devices = s.devices
  freeReads : t.freeReads = s.freeReads

/-- The block's registers, its record and the device states are as before. -/
structure BlockKept (s t : State) : Prop where
  cmd       : t.cmd = s.cmd
  busy      : t.busy = s.busy
  k         : t.k = s.k
  isrLatch  : t.isrLatch = s.isrLatch
  failAcc   : t.failAcc = s.failAcc
  result    : t.result = s.result
  cp        : t.cp = s.cp
  bus       : t.bus = s.bus
  devices   : t.devices = s.devices

/-- The memories are in their canonical form, RESULT is never 3 (R201), K is 0 between commands (R26), FAILACC is 1 only for
a SETPALETTE word (R21), and a payload has NOTIFY_PAYLOAD_BYTES bytes (R64). -/
abbrev RegisterInv (s : State) : Prop :=
  Memory.wf s.cells = true ∧ Store.sorted cellLt s.pins = true ∧ Store.sorted natLt s.endpoints = true ∧
  Store.sorted natLt s.devices = true ∧ Store.sorted natLt s.host.waitSet = true ∧
  Store.sorted natLt s.host.cntMotion = true ∧
  s.result ≠ 3 ∧ (s.busy = false → s.k = 0) ∧ (s.failAcc = true → fieldOpc s.cmd = 0x11) ∧
  (∀ p, s.host.payload = some p → p.bytes.length = s.cfg.notifyPayloadBytes)

/-- Every cell that was ever touched lies inside the window of a mapped slot (R66, R67, R70), and every handle that is or
will be put in the wait set belongs to a slot with an interrupt, a window and a handle (R31). -/
abbrev WindowInv (s : State) : Prop :=
  (∀ e ∈ s.cells, cellLegal s.cfg e.1.1 e.1.2 = true) ∧
  (∀ d ∈ Store.keys s.host.waitSet, s.cfg.inWaitSet d = true) ∧
  (∀ d ∈ s.host.todo.filterMap (fun op => match op with | .addToWaitSet d => some d | _ => none),
    s.cfg.inWaitSet d = true)

end Sys2Proof.Machine
end

