-- ==== Sys2Proof/Certificates/Slice0/Obligations.lean ====
section
/-! DEFINITION. What is claimed of the machine. Each statement holds for every configuration and every script of the
environment, except where its hypotheses say otherwise. "Quiet" means that the script holds no more moves. -/

open Sys2Proof Sys2Proof.Machine

/-! ### Encoding (30_encoding.md) -/

/-- Decoding the word of a command gives the command back, every operand at every value (R91, R94). -/
def Obligations.DecodeOfEncodeIsTheCommand : Prop :=
  ∀ i : Instr, decode (encode i) = .ok i

/-- A word has one meaning: encoding what it decodes to gives the word back (R96). -/
def Obligations.EncodeOfDecodeIsTheWord : Prop :=
  ∀ (w : CommandWord) (i : Instr), decode w = .ok i → encode i = w

/-- The decoder selects a row exactly when the word agrees with the row's match under its mask (R95, the ten rows written
out). -/
def Obligations.DecodeSelectsRowsByMatchAndMask : Prop :=
  ∀ w : CommandWord,
    (w &&& 0xFF00FFFF00000000#64 = 0x0100000000000000#64 ↔ ∃ dev count, decode w = .ok (.setPeriod dev count)) ∧
    (w &&& 0xFF0000FF00000000#64 = 0x0200000000000000#64 ↔ ∃ dev count idx, decode w = .ok (.setDuty dev count idx)) ∧
    (w &&& 0xFF00FFFFFFFFFFFF#64 = 0x0300000000000000#64 ↔ ∃ dev, decode w = .ok (.enable dev)) ∧
    (w &&& 0xFF00FFFFFFFFFFFF#64 = 0x0400000000000000#64 ↔ ∃ dev, decode w = .ok (.disable dev)) ∧
    (w &&& 0xFF0000FFFFFF0000#64 = 0x1000000000000000#64 ↔
      ∃ silk tag percent, decode w = .ok (.setLedPercent silk tag percent)) ∧
    (w &&& 0xFF00FFFFFF000000#64 = 0x1100000000000000#64 ↔ ∃ silk r g b, decode w = .ok (.setPalette silk r g b)) ∧
    (w &&& 0xFFFFFFFFFFFFFFFF#64 = 0x1200000000000000#64 ↔ decode w = .ok .allLedsOff) ∧
    (w &&& 0xFF00FFFFFFFFFFFF#64 = 0x2000000000000000#64 ↔ ∃ dev, decode w = .ok (.configureDevice dev)) ∧
    (w &&& 0xFF00FFFFFFFFFFFF#64 = 0x2100000000000000#64 ↔ ∃ dev, decode w = .ok (.reacknowledge dev)) ∧
    (w &&& 0xFF00FFFFFFFFFFFF#64 = 0x2200000000000000#64 ↔ ∃ dev, decode w = .ok (.ackNotification dev))

/-- R94: every operand is its field as it stands, and enters arithmetic zero-extended (as its unsigned value). -/
def Obligations.DecodeReadsOperandsFromTheirFields : Prop :=
  ∀ w : CommandWord,
    (∀ dev count, decode w = .ok (.setPeriod dev count) → dev = w.extractLsb' 48 8 ∧ count = w.extractLsb' 0 32) ∧
    (∀ dev count idx, decode w = .ok (.setDuty dev count idx) →
      dev = w.extractLsb' 48 8 ∧ count = w.extractLsb' 0 32 ∧ idx = w.extractLsb' 40 8) ∧
    (∀ dev, decode w = .ok (.enable dev) ∨ decode w = .ok (.disable dev) ∨ decode w = .ok (.configureDevice dev) ∨
        decode w = .ok (.reacknowledge dev) ∨ decode w = .ok (.ackNotification dev) → dev = w.extractLsb' 48 8) ∧
    (∀ silk tag percent, decode w = .ok (.setLedPercent silk tag percent) →
      silk = w.extractLsb' 48 8 ∧ tag = w.extractLsb' 40 8 ∧ percent = w.extractLsb' 0 16) ∧
    (∀ silk r g b, decode w = .ok (.setPalette silk r g b) →
      silk = w.extractLsb' 48 8 ∧ r = w.extractLsb' 16 8 ∧ g = w.extractLsb' 8 8 ∧ b = w.extractLsb' 0 8) ∧
    (∀ M : Word, (dutyOf (w.extractLsb' 0 16) M).toNat = (w.extractLsb' 0 16).toNat * M.toNat / 1000 % 2 ^ 32) ∧
    (∀ lo : Nat, (pctOf (w.extractLsb' lo 8)).toNat = (w.extractLsb' lo 8).toNat * 1000 / 255)

/-- A few words of 95_test_vectors.md, one for each operation, decode to the command the spec writes beside them. -/
def Obligations.VectorWordsDecodeAsListed : Prop :=
  decode 0x0103000000001388#64 = .ok (.setPeriod 3 5000) ∧
  decode 0x0203020000000017#64 = .ok (.setDuty 3 23 2) ∧
  decode 0x0303000000000000#64 = .ok (.enable 3) ∧
  decode 0x0403000000000000#64 = .ok (.disable 3) ∧
  decode 0x10010200000003E7#64 = .ok (.setLedPercent 1 2 999) ∧
  decode 0x11010000000202E2#64 = .ok (.setPalette 1 2 2 226) ∧
  decode 0x1200000000000000#64 = .ok .allLedsOff ∧
  decode 0x2002000000000000#64 = .ok (.configureDevice 2) ∧
  decode 0x2102000000000000#64 = .ok (.reacknowledge 2) ∧
  decode 0x2202000000000000#64 = .ok (.ackNotification 2)

/-! ### A step runs the presented command (10_state.md R25, 30_encoding.md R97, R98) -/

/-- With an idle block and a word at the port that decodes to `i`, the step is `exec i` once the word is taken from the
port (the port is the model's own, log 18). -/
def Obligations.StepRunsThePresentedCommand : Prop :=
  ∀ (s : State) (w : CommandWord) (i : Instr),
    Ready s → s.port = some w → decode w = .ok i → step s = exec i { s with port := none }

/-- R97: a word that selects no row is accepted and completed with ILLEGAL; no cell, no endpoint and nothing else
changes. That CMD, FAILACC and CP take part in the acceptance is the model's reading (log 13). -/
def Obligations.WordThatSelectsNoRowIsIllegal : Prop :=
  ∀ (s : State) (w : CommandWord), Ready s → s.port = some w → (∀ i, decode w ≠ .ok i) →
    step s = .next { s with port := none, cmd := w, k := 0, failAcc := false, busy := false, result := 2, cp := s.cp + 1 }

/-- R98: a command whose check fails completes with ILLEGAL and performs no access: only the registers of acceptance and
completion change, which are the model's reading (log 13). -/
def Obligations.FailedCheckIsIllegalWithNoAccess : Prop :=
  ∀ (s : State) (i : Instr), Ready s → FailsChecks s.cfg i →
    exec i s = .next { s with cmd := encode i, k := 0, failAcc := false, busy := false, result := 2, cp := s.cp + 1 }

/-- R201 to R203: every command completes, once, with the code of its cause: ILLEGAL if a check fails, else FAIL if a
(silk, colour) pair has no tuple, else OK. -/
def Obligations.EveryCommandCompletesWithTheCodeOfItsCause : Prop :=
  ∀ (s : State) (i : Instr), Ready s → ∃ t, exec i s = .next t ∧
    (FailsChecks s.cfg i → Completed (encode i) 2 s t) ∧
    (¬ FailsChecks s.cfg i → MissesATuple s.cfg i → Completed (encode i) 1 s t) ∧
    (¬ FailsChecks s.cfg i → ¬ MissesATuple s.cfg i → Completed (encode i) 0 s t)

/-- R36 and U12 (the model's choice, log 14 and 15): an ill-formed configuration and a command presented to a busy block
are refused, by `exec` and by `step`. -/
def Obligations.IllFormedOrBusyIsRefused : Prop :=
  ∀ (s : State) (i : Instr) (w : CommandWord),
    (s.cfg.wellFormed = false →
      exec i s = .refused .illFormedConfiguration ∧ step s = .refused .illFormedConfiguration) ∧
    (s.cfg.wellFormed = true → s.busy = true → exec i s = .refused .commandWhileBusy ∧
      (s.port = some w → step s = .refused .commandWhileBusy))

/-! ### PWM Controller (40_pwm_controller.md) -/

/-- R121: SETPERIOD is one store of the count to the period cell; on a PWM window the period register then holds it. In a window that is not a PWM
peripheral's the register kept there reacts, and a cell that no rule names keeps its contents: which windows have which
registers, and that an unnamed cell stores nothing, are the model's choices (log 6, 7). -/
def Obligations.SetPeriodStoresTheCount : Prop :=
  ∀ (s : State) (dev : Byte) (count : Word), Ready s → InWindow s.cfg dev.toNat s.cfg.pwmPeriodOff →
    ∃ t, exec (.setPeriod dev count) s = .next t ∧ Completed (encode (.setPeriod dev count)) 0 s t ∧
      t.bus = s.bus ++ [.write dev.toNat s.cfg.pwmPeriodOff count] ∧
      t.cell dev.toNat s.cfg.pwmPeriodOff =
        written (regAt s.cfg dev.toNat s.cfg.pwmPeriodOff) ((envGap s).cell dev.toNat s.cfg.pwmPeriodOff) count ∧
      (isPwm s.cfg dev.toNat = true → t.cell dev.toNat s.cfg.pwmPeriodOff = count)

/-- R123: SETDUTY is one store of the count to cell PWM_DUTY_BASE + idx, for every idx inside the window; on a PWM window the
cell then holds it. In a window that is not a PWM
peripheral's the register kept there reacts, and a cell that no rule names keeps its contents: which windows have which
registers, and that an unnamed cell stores nothing, are the model's choices (log 6, 7). So is a duty
register for each of the 256 indexes of a PWM window (log 6). -/
def Obligations.SetDutyStoresTheCount : Prop :=
  ∀ (s : State) (dev : Byte) (count : Word) (idx : Byte), Ready s →
    InWindow s.cfg dev.toNat (s.cfg.pwmDutyBase + idx.toNat) →
    ∃ t, exec (.setDuty dev count idx) s = .next t ∧ Completed (encode (.setDuty dev count idx)) 0 s t ∧
      t.bus = s.bus ++ [.write dev.toNat (s.cfg.pwmDutyBase + idx.toNat) count] ∧
      t.cell dev.toNat (s.cfg.pwmDutyBase + idx.toNat) =
        written (regAt s.cfg dev.toNat (s.cfg.pwmDutyBase + idx.toNat))
          ((envGap s).cell dev.toNat (s.cfg.pwmDutyBase + idx.toNat)) count ∧
      (isPwm s.cfg dev.toNat = true → t.cell dev.toNat (s.cfg.pwmDutyBase + idx.toNat) = count)

/-- R125: ENABLE is one store of the word with the run bit alone; on a PWM window the control register then holds it. In a window that is not a PWM
peripheral's the register kept there reacts, and a cell that no rule names keeps its contents: which windows have which
registers, and that an unnamed cell stores nothing, are the model's choices (log 6, 7). -/
def Obligations.EnableStoresTheRunBitAlone : Prop :=
  ∀ (s : State) (dev : Byte), Ready s → InWindow s.cfg dev.toNat s.cfg.pwmCtrlOff →
    ∃ t, exec (.enable dev) s = .next t ∧ Completed (encode (.enable dev)) 0 s t ∧
      t.bus = s.bus ++ [.write dev.toNat s.cfg.pwmCtrlOff (1#32 <<< s.cfg.pwmRunBit.val)] ∧
      t.cell dev.toNat s.cfg.pwmCtrlOff =
        written (regAt s.cfg dev.toNat s.cfg.pwmCtrlOff) ((envGap s).cell dev.toNat s.cfg.pwmCtrlOff)
          (1#32 <<< s.cfg.pwmRunBit.val) ∧
      (isPwm s.cfg dev.toNat = true →
        (∀ n, (t.cell dev.toNat s.cfg.pwmCtrlOff).getLsbD n = decide (n = s.cfg.pwmRunBit.val)))

/-- R127: DISABLE is one store of 0; on a PWM window the control register then holds 0. In a window that is not a PWM
peripheral's the register kept there reacts, and a cell that no rule names keeps its contents: which windows have which
registers, and that an unnamed cell stores nothing, are the model's choices (log 6, 7). -/
def Obligations.DisableStoresZero : Prop :=
  ∀ (s : State) (dev : Byte), Ready s → InWindow s.cfg dev.toNat s.cfg.pwmCtrlOff →
    ∃ t, exec (.disable dev) s = .next t ∧ Completed (encode (.disable dev)) 0 s t ∧
      t.bus = s.bus ++ [.write dev.toNat s.cfg.pwmCtrlOff 0] ∧
      t.cell dev.toNat s.cfg.pwmCtrlOff =
        written (regAt s.cfg dev.toNat s.cfg.pwmCtrlOff) ((envGap s).cell dev.toNat s.cfg.pwmCtrlOff) 0 ∧
      (isPwm s.cfg dev.toNat = true → t.cell dev.toNat s.cfg.pwmCtrlOff = 0)

/-- R126, on a PWM window, which is the window of a bank or, by the model's choice, of another slot of kind PWM (log 6): ENABLE
stores the run bit as 1 and DISABLE stores it as 0, whatever was there; neither reads the register, and a second ENABLE
leaves the bank enabled: nothing is inverted. -/
def Obligations.EnableAndDisableStoreAndDoNotInvert : Prop :=
  ∀ (s t u : State) (dev : Byte), InWindow s.cfg dev.toNat s.cfg.pwmCtrlOff → isPwm s.cfg dev.toNat = true →
    (exec (.enable dev) s = .next t → exec (.enable dev) t = .next u →
      (t.cell dev.toNat s.cfg.pwmCtrlOff).getLsbD s.cfg.pwmRunBit.val = true ∧
      (u.cell dev.toNat s.cfg.pwmCtrlOff).getLsbD s.cfg.pwmRunBit.val = true ∧
      u.cell dev.toNat s.cfg.pwmCtrlOff = t.cell dev.toNat s.cfg.pwmCtrlOff ∧
      u.bus = s.bus ++ [.write dev.toNat s.cfg.pwmCtrlOff (1#32 <<< s.cfg.pwmRunBit.val),
        .write dev.toNat s.cfg.pwmCtrlOff (1#32 <<< s.cfg.pwmRunBit.val)]) ∧
    (exec (.disable dev) s = .next t →
      (t.cell dev.toNat s.cfg.pwmCtrlOff).getLsbD s.cfg.pwmRunBit.val = false ∧
      t.bus = s.bus ++ [.write dev.toNat s.cfg.pwmCtrlOff 0])

/-- The frame of the four stores (R65, R120, R129): outside the one cell, and the registers of acceptance and completion,
nothing changes. That a store to a cell no rule names (a SETDUTY on an input device's window, for example) changes no named
register is the model's choice (log 7). -/
def Obligations.StoreCommandsTouchOneCell : Prop :=
  ∀ s t : State,
    (∀ dev count, exec (.setPeriod dev count) s = .next t →
      Frame (fun d i => d = dev.toNat ∧ i = s.cfg.pwmPeriodOff) NoEndpoint s t ∧ LatchesKept s t ∧ t.failAcc = false) ∧
    (∀ dev count idx, exec (.setDuty dev count idx) s = .next t →
      Frame (fun d i => d = dev.toNat ∧ i = s.cfg.pwmDutyBase + idx.toNat) NoEndpoint s t ∧ LatchesKept s t ∧
        t.failAcc = false) ∧
    (∀ dev, exec (.enable dev) s = .next t →
      Frame (fun d i => d = dev.toNat ∧ i = s.cfg.pwmCtrlOff) NoEndpoint s t ∧ LatchesKept s t ∧ t.failAcc = false) ∧
    (∀ dev, exec (.disable dev) s = .next t →
      Frame (fun d i => d = dev.toNat ∧ i = s.cfg.pwmCtrlOff) NoEndpoint s t ∧ LatchesKept s t ∧ t.failAcc = false)

/-! ### Color Model (41_color_model.md) -/

/-- R147: `pctOf` takes the listed values, grows by 3 or 4 from each component to the next and never exceeds 1000. -/
def Obligations.PctOfGrowsFromZeroToThousand : Prop :=
  (pctOf 0 = 0 ∧ pctOf 1 = 3 ∧ pctOf 2 = 7 ∧ pctOf 3 = 11 ∧ pctOf 32 = 125 ∧ pctOf 34 = 133 ∧ pctOf 66 = 258 ∧
    pctOf 127 = 498 ∧ pctOf 128 = 501 ∧ pctOf 226 = 886 ∧ pctOf 254 = 996 ∧ pctOf 255 = 1000) ∧
  (∀ x : Byte, (pctOf x).toNat = x.toNat * 1000 / 255 ∧ (pctOf x).toNat ≤ 1000) ∧
  (∀ x : Byte, x ≠ 255 →
    (pctOf (x + 1)).toNat = (pctOf x).toNat + 3 ∨ (pctOf (x + 1)).toNat = (pctOf x).toNat + 4)

/-- R144: for percents up to 1000, `dutyOf` is the truncated quotient with no reduction, at most M, M at 1000, 0 at 0, and
monotone in both arguments; for M below 1000 the percents 0 and 1 share the duty 0, and for M = 1 every percent below 1000
gives 0. -/
def Obligations.DutyOfIsTheTruncatedShareOfMaxDuty : Prop :=
  ∀ (p q : Percent) (M N : Word), p.toNat ≤ 1000 → q.toNat ≤ 1000 →
    (dutyOf p M).toNat = p.toNat * M.toNat / 1000 ∧
    (dutyOf p M).toNat ≤ M.toNat ∧
    dutyOf 0 M = 0 ∧ dutyOf 1000 M = M ∧
    (p.toNat ≤ q.toNat → (dutyOf p M).toNat ≤ (dutyOf q M).toNat) ∧
    (M.toNat ≤ N.toNat → (dutyOf p M).toNat ≤ (dutyOf p N).toNat) ∧
    (M.toNat < 1000 → dutyOf 1 M = dutyOf 0 M ∧ dutyOf 1 M = 0) ∧
    (M = 1 → p.toNat < 1000 → dutyOf p M = 0)

/-- R140, R146, R150: the two formulas with exact products; above 1000 the same formula, reduced to 32 bits; a palette
component goes through both truncations, which is not one division by 255. -/
def Obligations.FormulasAreExactBeforeReduction : Prop :=
  (∀ (p : Percent) (x : Byte) (M : Word),
    (pctOf x).toNat = x.toNat * 1000 / 255 ∧
    (dutyOf p M).toNat = p.toNat * M.toNat / 1000 % 2 ^ 32 ∧
    (p.toNat ≤ 1000 → (dutyOf p M).toNat = p.toNat * M.toNat / 1000) ∧
    (dutyOf (pctOf x) M).toNat = x.toNat * 1000 / 255 * M.toNat / 1000) ∧
  dutyOf 1001 4000 = 4004 ∧ dutyOf 65535 0xFFFFFFFF#32 = 0x88F5C24D#32 ∧
  dutyOf (pctOf 128) 4000 = 2004 ∧ 128 * 4000 / 255 = 2007

/-- R141: the search finds the tuple with the least index that has the pair, and nothing exactly when no tuple has it. -/
def Obligations.LookupFindsTheFirstMatch : Prop :=
  ∀ (c : Config) (silk tag : Byte),
    (∀ ch, lookup c silk tag = some ch ↔
      ∃ k : Nat, c.chan[k]? = some ch ∧ ch.silkId = silk ∧ ch.colorTag = tag ∧
        ∀ j : Nat, j < k → ∀ other, c.chan[j]? = some other → ¬ (other.silkId = silk ∧ other.colorTag = tag)) ∧
    (lookup c silk tag = none ↔ ∀ ch ∈ c.chan, ¬ (ch.silkId = silk ∧ ch.colorTag = tag))

/-- R143: with a tuple for the pair, SETLEDPERCENT stores the duty in that tuple's register and completes with OK. -/
def Obligations.SetLedPercentStoresTheDuty : Prop :=
  ∀ (s : State) (silk tag : Byte) (percent : Percent) (ch : Channel), Ready s → lookup s.cfg silk tag = some ch →
    ∃ t, exec (.setLedPercent silk tag percent) s = .next t ∧
      Completed (encode (.setLedPercent silk tag percent)) 0 s t ∧
      t.bus = s.bus ++ [.write (dutySlot s.cfg ch) (dutyCell s.cfg ch) (dutyOf percent ch.maxDuty)] ∧
      t.cell (dutySlot s.cfg ch) (dutyCell s.cfg ch) = dutyOf percent ch.maxDuty

/-- R143, R202: without a tuple, SETLEDPERCENT completes with FAIL and performs no access. R202 says that the state differs only
in RESULT; that acceptance and completion (R25, R26) also write CMD, FAILACC, K and CP is the model's reading (log 13). -/
def Obligations.SetLedPercentWithoutTupleFails : Prop :=
  ∀ (s : State) (silk tag : Byte) (percent : Percent), Ready s → lookup s.cfg silk tag = none →
    exec (.setLedPercent silk tag percent) s =
      .next { s with cmd := encode (.setLedPercent silk tag percent), k := 0, failAcc := false, busy := false,
                     result := 1, cp := s.cp + 1 }

/-- R148, R149: SETPALETTE stores the duty of every colour that has a tuple, red, green, blue in this order, whatever
failed before it; it completes with FAIL, and FAILACC at 1, exactly when a colour has none. -/
def Obligations.SetPaletteStoresEveryColourFound : Prop :=
  ∀ (s : State) (silk r g b : Byte), Ready s →
    ∃ t, exec (.setPalette silk r g b) s = .next t ∧
      t.bus = s.bus ++ [(tagRed, r), (tagGreen, g), (tagBlue, b)].filterMap (fun p =>
        (lookup s.cfg silk p.1).map fun ch =>
          BusEvent.write (dutySlot s.cfg ch) (dutyCell s.cfg ch) (dutyOf (pctOf p.2) ch.maxDuty)) ∧
      (MissesATuple s.cfg (.setPalette silk r g b) →
        Completed (encode (.setPalette silk r g b)) 1 s t ∧ t.failAcc = true) ∧
      (¬ MissesATuple s.cfg (.setPalette silk r g b) →
        Completed (encode (.setPalette silk r g b)) 0 s t ∧ t.failAcc = false)

/-- R148: after SETPALETTE the duty register of each colour found holds its duty, unless the table maps a later colour of
the silk to the same register. -/
def Obligations.SetPaletteLeavesTheDuties : Prop :=
  ∀ (s t : State) (silk r g b : Byte), exec (.setPalette silk r g b) s = .next t →
    (∀ ch, lookup s.cfg silk tagBlue = some ch →
      t.cell (dutySlot s.cfg ch) (dutyCell s.cfg ch) = dutyOf (pctOf b) ch.maxDuty) ∧
    (∀ ch, lookup s.cfg silk tagGreen = some ch →
      (∀ later, lookup s.cfg silk tagBlue = some later →
        ¬ (dutySlot s.cfg later = dutySlot s.cfg ch ∧ dutyCell s.cfg later = dutyCell s.cfg ch)) →
      t.cell (dutySlot s.cfg ch) (dutyCell s.cfg ch) = dutyOf (pctOf g) ch.maxDuty) ∧
    (∀ ch, lookup s.cfg silk tagRed = some ch →
      (∀ later, lookup s.cfg silk tagGreen = some later ∨ lookup s.cfg silk tagBlue = some later →
        ¬ (dutySlot s.cfg later = dutySlot s.cfg ch ∧ dutyCell s.cfg later = dutyCell s.cfg ch)) →
      t.cell (dutySlot s.cfg ch) (dutyCell s.cfg ch) = dutyOf (pctOf r) ch.maxDuty)

/-- The frame of the two colour commands: only the duty registers of the tuples looked up change. -/
def Obligations.ColourCommandsTouchOnlyTheirDuties : Prop :=
  ∀ s t : State,
    (∀ silk tag percent, exec (.setLedPercent silk tag percent) s = .next t →
      Frame (fun d i => ∃ ch, lookup s.cfg silk tag = some ch ∧ d = dutySlot s.cfg ch ∧ i = dutyCell s.cfg ch)
        NoEndpoint s t ∧ LatchesKept s t ∧ t.failAcc = false) ∧
    (∀ silk r g b, exec (.setPalette silk r g b) s = .next t →
      Frame (fun d i => ∃ tag ch, (tag = tagRed ∨ tag = tagGreen ∨ tag = tagBlue) ∧
          lookup s.cfg silk tag = some ch ∧ d = dutySlot s.cfg ch ∧ i = dutyCell s.cfg ch)
        NoEndpoint s t ∧ LatchesKept s t)

/-- R152, R154: ALLLEDSOFF completes with OK after all periods, then all duties in table order, then all enables. -/
def Obligations.AllLedsOffWritesInThreePhases : Prop :=
  ∀ s : State, Ready s →
    ∃ t, exec .allLedsOff s = .next t ∧ Completed (encode .allLedsOff) 0 s t ∧
      t.bus = s.bus ++
        s.cfg.pwmBanks.map (fun d => BusEvent.write d s.cfg.pwmPeriodOff s.cfg.pwmPeriod) ++
        s.cfg.chan.map (fun ch => BusEvent.write (dutySlot s.cfg ch) (dutyCell s.cfg ch) 0) ++
        s.cfg.pwmBanks.map (fun d => BusEvent.write d s.cfg.pwmCtrlOff (1#32 <<< s.cfg.pwmRunBit.val))

/-- R153: after ALLLEDSOFF every tuple's duty register holds 0, every bank's period register PWM_PERIOD, and the run bit of
every bank is 1. -/
def Obligations.AllLedsOffLeavesLedsDarkAndBanksEnabled : Prop :=
  ∀ s t : State, exec .allLedsOff s = .next t →
    (∀ ch ∈ s.cfg.chan, t.cell (dutySlot s.cfg ch) (dutyCell s.cfg ch) = 0) ∧
    (∀ d ∈ s.cfg.pwmBanks, t.cell d s.cfg.pwmPeriodOff = s.cfg.pwmPeriod ∧
      (t.cell d s.cfg.pwmCtrlOff).getLsbD s.cfg.pwmRunBit.val = true)

/-- The frame of ALLLEDSOFF: only the period and control registers of the banks and the duty registers of the table change
(R152: a duty register that no tuple names is not written). -/
def Obligations.AllLedsOffTouchesOnlyBanksAndTable : Prop :=
  ∀ s t : State, exec .allLedsOff s = .next t →
    Frame (fun d i => (d ∈ s.cfg.pwmBanks ∧ (i = s.cfg.pwmPeriodOff ∨ i = s.cfg.pwmCtrlOff)) ∨
        ∃ ch ∈ s.cfg.chan, d = dutySlot s.cfg ch ∧ i = dutyCell s.cfg ch)
      NoEndpoint s t ∧ LatchesKept s t ∧ t.failAcc = false

/-- R154: from a state in which every bank is stopped, no bank runs at any micro-step of ALLLEDSOFF while a duty register
of the table still holds something other than 0. -/
def Obligations.NoBankRunsWithAnUnwrittenDuty : Prop :=
  ∀ s : State, Ready s →
    (∀ d ∈ s.cfg.pwmBanks, (s.cell d s.cfg.pwmCtrlOff).getLsbD s.cfg.pwmRunBit.val = false) →
    ∀ n, n ≤ 2 * s.cfg.nBank + s.cfg.nChan →
      ∀ d ∈ s.cfg.pwmBanks,
        ((microSteps n (accept (encode .allLedsOff) s)).cell d s.cfg.pwmCtrlOff).getLsbD s.cfg.pwmRunBit.val = true →
        ∀ ch ∈ s.cfg.chan,
          (microSteps n (accept (encode .allLedsOff) s)).cell (dutySlot s.cfg ch) (dutyCell s.cfg ch) = 0

/-! ### Interrupt Controller (42_interrupt_rearm.md) -/

/-- R171, R174: the two interrupt words for every combination of flags. -/
def Obligations.InterruptWordsFollowTheFlags : Prop :=
  ∀ (c : Config) (D : Device),
    (D.hasIrq = false → ierWord c D = 0 ∧ gierWord D = 0x00000000#32) ∧
    (D.hasIrq = true → (D.enable1 && !D.output1) = false → (D.enable2 && !D.output2) = false →
      ierWord c D = 0 ∧ gierWord D = 0x00000000#32) ∧
    (D.hasIrq = true → (D.enable1 && !D.output1) = true → (D.enable2 && !D.output2) = false →
      ierWord c D = 1#32 <<< c.ierCh1Bit.val ∧ gierWord D = 0x80000000#32) ∧
    (D.hasIrq = true → (D.enable1 && !D.output1) = false → (D.enable2 && !D.output2) = true →
      ierWord c D = 1#32 <<< c.ierCh2Bit.val ∧ gierWord D = 0x80000000#32) ∧
    (D.hasIrq = true → (D.enable1 && !D.output1) = true → (D.enable2 && !D.output2) = true →
      ierWord c D = (1#32 <<< c.ierCh1Bit.val) ||| (1#32 <<< c.ierCh2Bit.val) ∧ gierWord D = 0x80000000#32)

/-- R172: CONFIGUREDEVICE writes tristate 1, tristate 2, interrupt-enable and global-interrupt-enable in this order, and
the registers of an input or indicator window then hold the words. The device is armed (R173; at completion, log 17). -/
def Obligations.ConfigureDeviceWritesFourRegisters : Prop :=
  ∀ (s : State) (dev : Byte) (D : Device), Ready s → s.cfg.dev[dev.toNat]? = some D →
    InWindow s.cfg dev.toNat s.cfg.gpioTri1Off → InWindow s.cfg dev.toNat s.cfg.gpioTri2Off →
    InWindow s.cfg dev.toNat s.cfg.gpioIerOff → InWindow s.cfg dev.toNat s.cfg.gpioGierOff →
    ∃ t, exec (.configureDevice dev) s = .next t ∧ Completed (encode (.configureDevice dev)) 0 s t ∧
      t.deviceState dev.toNat = .armed ∧
      t.bus = s.bus ++
        [.write dev.toNat s.cfg.gpioTri1Off (if D.output1 then 0x00000000#32 else 0xFFFFFFFF#32),
         .write dev.toNat s.cfg.gpioTri2Off (if D.output2 then 0x00000000#32 else 0xFFFFFFFF#32),
         .write dev.toNat s.cfg.gpioIerOff (ierWord s.cfg D),
         .write dev.toNat s.cfg.gpioGierOff (gierWord D)] ∧
      (isPwm s.cfg dev.toNat = false →
        t.cell dev.toNat s.cfg.gpioTri1Off = (if D.output1 then 0x00000000#32 else 0xFFFFFFFF#32) ∧
        t.cell dev.toNat s.cfg.gpioTri2Off = (if D.output2 then 0x00000000#32 else 0xFFFFFFFF#32) ∧
        t.cell dev.toNat s.cfg.gpioIerOff = ierWord s.cfg D ∧
        t.cell dev.toNat s.cfg.gpioGierOff = gierWord D)

/-- The frame of CONFIGUREDEVICE: only the four cells and the state of the device named change; in particular neither the
status nor the data registers (R172). On a PWM window the four may be cells no rule names; that writing them changes no named
register is the model's choice (log 7). -/
def Obligations.ConfigureDeviceTouchesFourCells : Prop :=
  ∀ (s t : State) (dev : Byte), exec (.configureDevice dev) s = .next t →
    Frame (fun d i => d = dev.toNat ∧
        (i = s.cfg.gpioTri1Off ∨ i = s.cfg.gpioTri2Off ∨ i = s.cfg.gpioIerOff ∨ i = s.cfg.gpioGierOff))
      NoEndpoint s t ∧
    t.isrLatch = s.isrLatch ∧ t.failAcc = false ∧ t.freeReads = s.freeReads ∧
    (∀ d, d ≠ dev.toNat → t.deviceState d = s.deviceState d)

/-- R176, R177: REACKNOWLEDGE on an input or indicator window reads the status S1 after two gaps and writes it back after a
third. With S2 the status just before the write, the status after it is S2 with the bits of S1 cleared; the last gap may
only add bits. In a quiet environment the status ends 0, also when it was 0 (R179). -/
def Obligations.ReacknowledgeClearsWhatWasRead : Prop :=
  ∀ (s : State) (dev : Byte), Ready s → InWindow s.cfg dev.toNat s.cfg.gpioIsrOff → isPwm s.cfg dev.toNat = false →
    let S1 := (envGap (envGap s)).cell dev.toNat s.cfg.gpioIsrOff
    let S2 := (envGap (envGap (envGap s))).cell dev.toNat s.cfg.gpioIsrOff
    ∃ t, exec (.reacknowledge dev) s = .next t ∧ Completed (encode (.reacknowledge dev)) 0 s t ∧
      t.isrLatch = S1 ∧
      t.bus = s.bus ++ [.delay .reackPre, .read dev.toNat s.cfg.gpioIsrOff S1,
        .write dev.toNat s.cfg.gpioIsrOff S1, .delay .reackPost] ∧
      (S2 &&& ~~~S1) &&& t.cell dev.toNat s.cfg.gpioIsrOff = S2 &&& ~~~S1 ∧
      (s.gaps.length ≤ 3 → t.cell dev.toNat s.cfg.gpioIsrOff = S2 &&& ~~~S1) ∧
      (s.gaps = [] → t.cell dev.toNat s.cfg.gpioIsrOff = 0)

/-- R180: the block does not check the kind of the window. On a PWM window REACKNOWLEDGE reads the cell and writes the
value back, which leaves a PWM register as it was. What a cell of no known register returns is free (log 7). -/
def Obligations.ReacknowledgeOnPwmWindowChangesNothing : Prop :=
  ∀ (s : State) (dev : Byte), Ready s → InWindow s.cfg dev.toNat s.cfg.gpioIsrOff → isPwm s.cfg dev.toNat = true →
    ∃ t, exec (.reacknowledge dev) s = .next t ∧ Completed (encode (.reacknowledge dev)) 0 s t ∧
      t.bus = s.bus ++ [.delay .reackPre, .read dev.toNat s.cfg.gpioIsrOff t.isrLatch,
        .write dev.toNat s.cfg.gpioIsrOff t.isrLatch, .delay .reackPost] ∧
      t.cell dev.toNat s.cfg.gpioIsrOff = s.cell dev.toNat s.cfg.gpioIsrOff ∧
      (regAt s.cfg dev.toNat s.cfg.gpioIsrOff ≠ .unknown → t.isrLatch = s.cell dev.toNat s.cfg.gpioIsrOff)

/-- The frame of REACKNOWLEDGE: only ISR_LATCH and the one cell change (R176). On a PWM window that may be a cell no rule names;
that writing it changes no named register is the model's choice (log 7). -/
def Obligations.ReacknowledgeTouchesOneCell : Prop :=
  ∀ (s t : State) (dev : Byte), exec (.reacknowledge dev) s = .next t →
    Frame (fun d i => d = dev.toNat ∧ i = s.cfg.gpioIsrOff) NoEndpoint s t ∧
    t.failAcc = false ∧ t.devices = s.devices ∧
    (isPwm s.cfg dev.toNat = false → t.freeReads = s.freeReads)

/-- R181, R214: ACKNOTIFICATION sends 01 00 00 00 to the endpoint and then delays; at the write the line is unmasked and
readable and count keep their values. In the gap before the delay the driver may deliver once more (R212). -/
def Obligations.AckNotificationUnmasksTheLine : Prop :=
  ∀ (s : State) (dev : Byte), Ready s → dev.toNat < s.cfg.nDev → s.cfg.hasHandle dev.toNat = true →
    ∃ t, exec (.ackNotification dev) s = .next t ∧ Completed (encode (.ackNotification dev)) 0 s t ∧
      t.bus = s.bus ++ [.notify dev.toNat [0x01#8, 0x00#8, 0x00#8, 0x00#8], .delay .ack] ∧
      (t.endpoint dev.toNat = { (envGap s).endpoint dev.toNat with masked := false } ∨
        t.endpoint dev.toNat = ⟨true, true, ((envGap s).endpoint dev.toNat).count + 1⟩) ∧
      (s.gaps.length ≤ 1 → t.endpoint dev.toNat = { (envGap s).endpoint dev.toNat with masked := false })

/-- The frame of ACKNOTIFICATION: it touches no window and no other endpoint (R181). -/
def Obligations.AckNotificationTouchesNoWindow : Prop :=
  ∀ (s t : State) (dev : Byte), exec (.ackNotification dev) s = .next t →
    Frame NoCell (fun d => d = dev.toNat) s t ∧ LatchesKept s t ∧ t.failAcc = false

/-- R183, R177: after REACKNOWLEDGE and then ACKNOTIFICATION of an input or indicator device, with S1 the status read and S2
the status at the write-back: every cause that fired after the read is still pending, but those on a bit of S1 that fired
again before the write-back, which merge with their first firing. So S2 without S1 is pending at the end; what is pending
when REACKNOWLEDGE ends stays pending; causes raised in the gap before the write-back stay but for S1's bits, and causes
raised in the three later gaps all stay. In a quiet environment the status is 0 and the line is unmasked. -/
def Obligations.RearmLosesNoCause : Prop :=
  ∀ (s t u : State) (dev : Byte), Ready s → InWindow s.cfg dev.toNat s.cfg.gpioIsrOff →
    isPwm s.cfg dev.toNat = false → s.cfg.hasHandle dev.toNat = true →
    exec (.reacknowledge dev) s = .next t → exec (.ackNotification dev) t = .next u →
    let S1 := (envGap (envGap s)).cell dev.toNat s.cfg.gpioIsrOff
    let S2 := (envGap (envGap (envGap s))).cell dev.toNat s.cfg.gpioIsrOff
    t.isrLatch = S1 ∧
    (S2 &&& ~~~S1) &&& t.cell dev.toNat s.cfg.gpioIsrOff = S2 &&& ~~~S1 ∧
    t.cell dev.toNat s.cfg.gpioIsrOff &&& u.cell dev.toNat s.cfg.gpioIsrOff = t.cell dev.toNat s.cfg.gpioIsrOff ∧
    (S2 &&& ~~~S1) &&& u.cell dev.toNat s.cfg.gpioIsrOff = S2 &&& ~~~S1 ∧
    (∀ (g : List EnvStep) (bits : Word), s.gaps[2]? = some g → .raiseStatus dev.toNat bits ∈ g →
      (bits &&& ~~~S1) &&& u.cell dev.toNat s.cfg.gpioIsrOff = bits &&& ~~~S1) ∧
    (∀ (n : Nat) (g : List EnvStep) (bits : Word), 3 ≤ n → n ≤ 5 → s.gaps[n]? = some g →
      .raiseStatus dev.toNat bits ∈ g → bits &&& u.cell dev.toNat s.cfg.gpioIsrOff = bits) ∧
    (s.gaps = [] → u.cell dev.toNat s.cfg.gpioIsrOff = 0 ∧
      u.endpoint dev.toNat = { s.endpoint dev.toNat with masked := false })

/-! ### The environment (60_exceptions.md R210 to R214) -/

/-- R83, R85, R210, R212: what one gap of the environment does. Of the stored cells only interrupt-status registers change,
and they only gain bits; endpoints change by delivery alone; nothing of the block changes. The other moves: an input level
changes only if the gap sets it (which changes what a data register returns, R41), a wait is marked as failed and the quit
flag is set exactly if the gap says so. One list of the script is used up (log 3). -/
def Obligations.EnvironmentOnlySetsStatusAndDelivers : Prop :=
  ∀ s : State, Frame NoCell NoEndpoint s (envGap s) ∧ BlockKept s (envGap s) ∧ (envGap s).freeReads = s.freeReads ∧
    (envGap s).gaps = s.gaps.tail ∧
    (∀ d ch, (∀ level, EnvStep.setInputs d ch level ∉ s.gaps.headD []) → (envGap s).pin d ch = s.pin d ch) ∧
    ((envGap s).waitError = true ↔ s.waitError = true ∨ EnvStep.waitFails ∈ s.gaps.headD []) ∧
    ((envGap s).host.quit = true ↔ s.host.quit = true ∨ EnvStep.quitSignal ∈ s.gaps.headD [])

/-- R211 (from general knowledge, as the spec marks it) and R212, with the model's guards (log 21): a delivery happens
exactly when the slot has a handle and a status register, the line is asserted (bit 31 of the global enable and a status
bit that is enabled) and not masked; it masks, counts and makes readable. -/
def Obligations.DeliveryNeedsAnUnmaskedAssertedLine : Prop :=
  ∀ (s : State) (d : Nat), s.cfg.hasHandle d = true → InWindow s.cfg d s.cfg.gpioIsrOff → isPwm s.cfg d = false →
    ((s.cell d s.cfg.gpioGierOff).getLsbD 31 = true → s.cell d s.cfg.gpioIsrOff &&& s.cell d s.cfg.gpioIerOff ≠ 0 →
      (s.endpoint d).masked = false →
      (envStep (.deliver d) s).endpoint d = ⟨true, true, (s.endpoint d).count + 1⟩) ∧
    ((s.cell d s.cfg.gpioGierOff).getLsbD 31 = false → envStep (.deliver d) s = s) ∧
    (s.cell d s.cfg.gpioIsrOff &&& s.cell d s.cfg.gpioIerOff = 0 → envStep (.deliver d) s = s) ∧
    ((s.endpoint d).masked = true → envStep (.deliver d) s = s)

/-! ### The whole machine -/

/-- R25, R26, R83: a whole command is the run of its micro-steps: from the accepted state, `n` steps of the machine give
what `exec` gives, and the command is in flight (BUSY = 1) until the last of them. That a step is a whole command, and one
micro-step on a busy machine, is the model's (log 2, 33). -/
def Obligations.ExecIsTheRunOfItsMicroSteps : Prop :=
  ∀ (s : State) (i : Instr), Ready s → s.port = none →
    ∃ n, n ≤ 255 ∧ exec i s = core.run n (accept (encode i) s) ∧
      ∀ m, m < n → ∃ u, core.run m (accept (encode i) s) = .next u ∧ u.busy = true

/-- Every step keeps the canonical forms, RESULT away from 3 (R201), K at 0 between commands (R26), FAILACC at 1 only for a
SETPALETTE (R21), and the payload read at NOTIFY_PAYLOAD_BYTES bytes (R64; the buffer is the model's, log 35). -/
def Obligations.StepKeepsRegistersLegal : Prop :=
  ∀ s t : State, RegisterInv s → step s = .next t → RegisterInv t

/-- Every step keeps every touched cell inside a mapped window (R66, R67, R70) and the wait set valid (R31). -/
def Obligations.StepKeepsAccessesInsideWindows : Prop :=
  ∀ s t : State, WindowInv s → step s = .next t → WindowInv t

/-- Both invariants hold at reset. -/
def Obligations.ResetMeetsTheInvariants : Prop :=
  RegisterInv State.reset ∧ WindowInv State.reset

/-- R31, R19: no step changes the configuration. -/
def Obligations.StepNeverChangesTheConfiguration : Prop :=
  ∀ s t : State, step s = .next t → t.cfg = s.cfg

/-- R261: what reset leaves, where the spec gives a value. -/
def Obligations.ResetLeavesTheListedValues : Prop :=
  State.reset.busy = false ∧ State.reset.k = 0 ∧ State.reset.failAcc = false ∧ State.reset.result = 0 ∧
  State.reset.cp = 0 ∧ State.reset.port = none ∧ (∀ d, State.reset.deviceState d = .unconfigured) ∧
  State.reset.host.pal0 = ⟨2, 2, 2⟩ ∧ State.reset.host.pal1 = ⟨2, 2, 2⟩ ∧ State.reset.host.sw = 0 ∧
  State.reset.host.btn = 0 ∧ State.reset.host.cntMotion = [] ∧ State.reset.host.cntSw = 0 ∧
  State.reset.host.cntBtn = 0 ∧ State.reset.host.quit = false ∧
  State.reset.host.mux = .beforeInitialAction ∧ State.reset.host.waitSet = []

/-- R173: an armed device stays armed under every step of the machine. -/
def Obligations.ArmedDevicesStayArmed : Prop :=
  ∀ (s t : State) (d : Nat), step s = .next t → s.deviceState d = .armed → t.deviceState d = .armed

/-! ### The host software (60_exceptions.md, 70_reset_and_hazards.md) -/

/-- R18, R279: the host's own step, taken only while no command is in flight or presented, leaves the block's registers
and the device states alone. -/
def Obligations.HostStepLeavesTheBlockAlone : Prop :=
  ∀ s t : State, s.busy = false → s.port = none → step s = .next t → BlockKept s t

/-- R266 steps 3 to 5: the host's first move plans CONFIGUREDEVICE for the mapped input and indicator devices (those of
kind motion, switch/button or indicator, log 32) in slot order, one ALLLEDSOFF, and then for every slot of the wait set, in
slot order, its handle, REACKNOWLEDGE and ACKNOTIFICATION; adding a handle adds that one slot to the wait set. -/
def Obligations.BootConfiguresThenDarkensThenArms : Prop :=
  (∀ s : State, Ready s → s.port = none → s.host.mux = .beforeInitialAction → s.host.todo = [] →
    ∃ (t : State) (ds ws : List Nat), step s = .next t ∧ t.host.mux = .initialAction ∧
      ds.Pairwise (· < ·) ∧
      (∀ d, d ∈ ds ↔ ∃ D, s.cfg.dev[d]? = some D ∧ D.mapped = true ∧
        (D.kind = .motion ∨ D.kind = .swbtn ∨ D.kind = .indicator)) ∧
      ws.Pairwise (· < ·) ∧
      (∀ d, d ∈ ws ↔ ∃ D, s.cfg.dev[d]? = some D ∧ D.hasIrq = true ∧ D.mapped = true ∧ D.hasHandle = true) ∧
      t.host.todo = ds.map (fun d => HostOp.command (.configureDevice (BitVec.ofNat 8 d))) ++
        [.command .allLedsOff] ++
        ws.flatMap fun d => [.addToWaitSet d, .command (.reacknowledge (BitVec.ofNat 8 d)),
          .command (.ackNotification (BitVec.ofNat 8 d))]) ∧
  (∀ (s : State) (d : Nat) (rest : List HostOp), Ready s → s.port = none → s.host.todo = .addToWaitSet d :: rest →
    ∃ t, step s = .next t ∧ t.host.todo = rest ∧ Store.get? t.host.waitSet d = some () ∧
      ∀ d', d' ≠ d → Store.get? t.host.waitSet d' = Store.get? s.host.waitSet d')

/-- R217, R226: an idle host whose wait neither failed nor was cut short by a quit request serves exactly the readable
handles of its wait set, in increasing slot order, or stays blocked when there are none. -/
def Obligations.WaitServesReadyHandlesInSlotOrder : Prop :=
  ∀ s : State, Ready s → s.port = none → s.host.mux = .idle → s.host.todo = [] →
    Store.sorted natLt s.host.waitSet = true → (envGap s).host.quit = false → (envGap s).waitError = false →
    ∃ (t : State) (ds : List Nat), step s = .next t ∧ ds.Pairwise (· < ·) ∧
      (∀ d, d ∈ ds ↔ d ∈ Store.keys s.host.waitSet ∧ ((envGap s).endpoint d).readable = true) ∧
      (ds = [] → t = envGap s) ∧
      (ds ≠ [] → t.host.mux = .servicing ∧ t.host.todo = ds.flatMap fun d => [.readPayload d, .dispatch d])

/-- R227: a failed wait serves no handle and issues no command; the host waits again at once, unless a quit request has
been observed: then it exits without retrying. (The logging is out of scope, R7.) -/
def Obligations.FailedWaitIsRetried : Prop :=
  ∀ s : State, Ready s → s.port = none → s.host.mux = .idle → s.host.todo = [] → (envGap s).waitError = true →
    ∃ t, step s = .next t ∧ t.port = none ∧ t.host.todo = [] ∧ t.endpoints = (envGap s).endpoints ∧
      t.cells = (envGap s).cells ∧ t.bus = s.bus ∧
      ((envGap s).host.quit = false → t.host.mux = .aboutToBlock ∧ t.waitError = false ∧
        t.host.waitSet = s.host.waitSet ∧
        ((envGap t).host.quit = false → ∃ u, step t = .next u ∧ u.host.mux = .idle ∧ u.host.todo = [])) ∧
      ((envGap s).host.quit = true → t.host.mux = .exited)

/-- R236: a quit request is observed right before blocking and right after the wait: the host exits, presents no command
and writes no register. That the signal ends a wait with nothing readable is presumed (R252, general knowledge; log 23), and
that the work list and the wait set are then empty is the model's (log 30). -/
def Obligations.QuitExitsAroundTheWait : Prop :=
  ∀ s : State, Ready s → s.port = none → (s.host.mux = .aboutToBlock ∨ s.host.mux = .idle) → s.host.todo = [] →
    (envGap s).host.quit = true →
    ∃ t, step s = .next t ∧ t.host.mux = .exited ∧ t.port = none ∧ t.host.todo = [] ∧ t.host.waitSet = [] ∧
      t.cells = (envGap s).cells ∧ t.bus = s.bus

/-- R64, R73, R226: the payload read moves NOTIFY_PAYLOAD_BYTES bytes whose content is `count[d]`, clears `readable` and
leaves everything else of the endpoints as it was; the host ignores the bytes. (The buffer that holds them is the model's,
log 35.) -/
def Obligations.PayloadReadClearsReadable : Prop :=
  ∀ (s : State) (d : Nat) (rest : List HostOp), Ready s → s.port = none → s.host.todo = .readPayload d :: rest →
    ∃ t p, step s = .next t ∧ t.endpoint d = { (envGap s).endpoint d with readable := false } ∧
      (∀ d', d' ≠ d → t.endpoint d' = (envGap s).endpoint d') ∧
      p.slot = d ∧ p.count = ((envGap s).endpoint d).count ∧ p.bytes.length = s.cfg.notifyPayloadBytes ∧
      t.host = { (envGap s).host with todo := rest, payload := some p } ∧
      t.cells = (envGap s).cells ∧ t.port = none

/-- R226, R228, R231: dispatch by kind plans the motion handler's and the switch/button handler's actions, in order. Of these
actions: a data read keeps the value the register returns, which is the input level wherever the tristate bit is 1 (R41);
the counter of the slot grows by 1; a command, and SETPALETTE with each stored palette and its silk, is presented at the
port. (That a read and the work list are steps of their own is log 22; the mix by tristate bits is log 8.) -/
def Obligations.DispatchRunsTheHandlerOfTheKind : Prop :=
  ∀ (s : State) (rest : List HostOp), Ready s → s.port = none →
    (∀ d D, s.host.todo = .dispatch d :: rest → s.cfg.dev[d]? = some D →
      ∃ t, step s = .next t ∧
        (D.kind = .motion → t.host.todo =
          [.readData1 d, .command (.reacknowledge (BitVec.ofNat 8 d)), .command (.ackNotification (BitVec.ofNat 8 d)),
           .countMotion d, .readIndicator, .writeIndicator 0x0000000C#32, .neutralIfButton, .applyPaletteRule,
           .pushPalette0, .pushPalette1] ++ rest) ∧
        (D.kind = .swbtn → t.host.todo =
          [.readData1 d, .readData2 d, .command (.reacknowledge (BitVec.ofNat 8 d)),
           .command (.ackNotification (BitVec.ofNat 8 d)), .compareSwitches, .compareButtons] ++ rest)) ∧
    (∀ d, s.host.todo = .readData1 d :: rest → InWindow s.cfg d s.cfg.gpioData1Off →
      ∃ t, step s = .next t ∧ t.host.todo = rest ∧ t.cells = (envGap s).cells ∧
        t.host.tmpA = readValue (envGap s) d s.cfg.gpioData1Off ∧
        (isPwm s.cfg d = false → ∀ n, (s.cell d s.cfg.gpioTri1Off).getLsbD n = true →
          t.host.tmpA.getLsbD n = ((envGap s).pin d .ch1).getLsbD n)) ∧
    (∀ d, s.host.todo = .readData2 d :: rest → InWindow s.cfg d s.cfg.gpioData2Off →
      ∃ t, step s = .next t ∧ t.host.todo = rest ∧ t.cells = (envGap s).cells ∧
        t.host.tmpB = readValue (envGap s) d s.cfg.gpioData2Off ∧
        (isPwm s.cfg d = false → ∀ n, (s.cell d s.cfg.gpioTri2Off).getLsbD n = true →
          t.host.tmpB.getLsbD n = ((envGap s).pin d .ch2).getLsbD n)) ∧
    (∀ d, s.host.todo = .countMotion d :: rest →
      ∃ t, step s = .next t ∧ t.host.todo = rest ∧
        Store.get? t.host.cntMotion d = some ((Store.get? s.host.cntMotion d).getD 0 + 1) ∧
        ∀ d', d' ≠ d → Store.get? t.host.cntMotion d' = Store.get? s.host.cntMotion d') ∧
    (∀ i, s.host.todo = .command i :: rest →
      ∃ t, step s = .next t ∧ t.host.todo = rest ∧ t.port = some (encode i)) ∧
    (s.host.todo = .pushPalette0 :: rest →
      ∃ t, step s = .next t ∧ t.host.todo = rest ∧
        t.port = some (encode (.setPalette s.cfg.silkA s.host.pal0.r s.host.pal0.g s.host.pal0.b))) ∧
    (s.host.todo = .pushPalette1 :: rest →
      ∃ t, step s = .next t ∧ t.host.todo = rest ∧
        t.port = some (encode (.setPalette s.cfg.silkB s.host.pal1.r s.host.pal1.g s.host.pal1.b)))

/-- R219: the palette rule is chosen by the stored switch word, priority 0x1, 0x2, 0x4, 0x8, first match wins; no match
leaves the palettes as they are, and 0x5 selects rule 0x1. Rule 0x1 adds 32 to the first palette's red and subtracts 32 from
the second's blue (R229); the other three are uninterpreted (log 26). -/
def Obligations.PaletteRuleIsTheFirstSwitchBit : Prop :=
  ∀ (s : State) (rest : List HostOp), Ready s → s.port = none → s.host.todo = .applyPaletteRule :: rest →
    ∃ t, step s = .next t ∧ t.host.todo = rest ∧ t.host.sw = s.host.sw ∧
      (s.host.sw &&& 1 ≠ 0 →
        t.host.pal0 = { s.host.pal0 with r := addComponent s.cfg.paletteArith s.host.pal0.r 32 } ∧
        t.host.pal1 = { s.host.pal1 with b := addComponent s.cfg.paletteArith s.host.pal1.b (-32) }) ∧
      (s.host.sw &&& 1 = 0 → s.host.sw &&& 2 ≠ 0 →
        (t.host.pal0, t.host.pal1) = Config.Free.paletteRule .bit2 s.host.pal0 s.host.pal1) ∧
      (s.host.sw &&& 1 = 0 → s.host.sw &&& 2 = 0 → s.host.sw &&& 4 ≠ 0 →
        (t.host.pal0, t.host.pal1) = Config.Free.paletteRule .bit4 s.host.pal0 s.host.pal1) ∧
      (s.host.sw &&& 1 = 0 → s.host.sw &&& 2 = 0 → s.host.sw &&& 4 = 0 → s.host.sw &&& 8 ≠ 0 →
        (t.host.pal0, t.host.pal1) = Config.Free.paletteRule .bit8 s.host.pal0 s.host.pal1) ∧
      (s.host.sw &&& 1 = 0 → s.host.sw &&& 2 = 0 → s.host.sw &&& 4 = 0 → s.host.sw &&& 8 = 0 →
        t.host.pal0 = s.host.pal0 ∧ t.host.pal1 = s.host.pal1) ∧
      (s.host.sw = 5 → t.host.pal0.r = addComponent s.cfg.paletteArith s.host.pal0.r 32)

/-- R234: the two policies for a palette component that overflows or underflows, on every component and both of the deltas
of R229, and on the spec's own values. -/
def Obligations.PaletteArithmeticWrapsOrSaturates : Prop :=
  (∀ x : Byte,
    (addComponent .wrap x 32).toNat = (x.toNat + 32) % 256 ∧
    (addComponent .wrap x (-32)).toNat = (x.toNat + 224) % 256 ∧
    (addComponent .saturate x 32).toNat = min 255 (x.toNat + 32) ∧
    (addComponent .saturate x (-32)).toNat = x.toNat - 32) ∧
  addComponent .wrap 2 (-32) = 226 ∧ addComponent .wrap 250 32 = 26 ∧
  addComponent .saturate 2 (-32) = 0 ∧ addComponent .saturate 250 32 = 255

/-- R228, R229: with a button down, and only then, both palettes are reset to neutral, whatever the switch word and whatever
they were; the words stay. With a button down and switch word 0x1 the palettes then become the ones of S4 of
95_test_vectors.md, under both policies of R234. -/
def Obligations.ButtonResetsPalettesBeforeTheRule : Prop :=
  (∀ (s : State) (rest : List HostOp), Ready s → s.port = none → s.host.todo = .neutralIfButton :: rest →
    ∃ t, step s = .next t ∧ t.host.todo = rest ∧ t.host.btn = s.host.btn ∧ t.host.sw = s.host.sw ∧
      (s.host.btn ≠ 0 → t.host.pal0 = ⟨2, 2, 2⟩ ∧ t.host.pal1 = ⟨2, 2, 2⟩) ∧
      (s.host.btn = 0 → t.host.pal0 = s.host.pal0 ∧ t.host.pal1 = s.host.pal1)) ∧
  (∀ (s : State) (rest : List HostOp), Ready s → s.port = none →
    s.host.todo = [.neutralIfButton, .applyPaletteRule] ++ rest → s.host.btn ≠ 0 → s.host.sw = 1 →
    ∃ t, core.run 2 s = .next t ∧ t.host.todo = rest ∧ t.host.pal0 = ⟨34, 2, 2⟩ ∧
      (s.cfg.paletteArith = .wrap → t.host.pal1 = ⟨2, 2, 226⟩) ∧
      (s.cfg.paletteArith = .saturate → t.host.pal1 = ⟨2, 2, 0⟩))

/-- R230, R231: a toggle of the indicator reads its data register and writes it back with the mask's bits inverted; with
the channel all outputs and a quiet environment the register read again differs in exactly those bits
(an output channel reads its latch, log 8). -/
def Obligations.IndicatorToggleInvertsTheMaskBits : Prop :=
  ∀ (s : State) (mask : Word) (rest : List HostOp), Ready s → s.port = none → s.gaps = [] →
    s.host.todo = [.readIndicator, .writeIndicator mask] ++ rest →
    InWindow s.cfg 1 s.cfg.gpioData1Off → isPwm s.cfg 1 = false → s.cell 1 s.cfg.gpioTri1Off = 0 →
    ∃ t, core.run 2 s = .next t ∧ t.host.todo = rest ∧
      readValue t 1 s.cfg.gpioData1Off = readValue s 1 s.cfg.gpioData1Off ^^^ mask ∧
      (∀ d i, ¬ (d = 1 ∧ i = s.cfg.gpioData1Off) → t.cell d i = s.cell d i)

/-- R231: a changed switch word is stored, counted once and toggles its indicator bit; an identical one does nothing. The
same for the button word. -/
def Obligations.ChangedWordCountsAndTogglesOnce : Prop :=
  ∀ (s : State) (rest : List HostOp), Ready s → s.port = none →
    (s.host.todo = .compareSwitches :: rest →
      ∃ t, step s = .next t ∧
        (s.host.tmpA = s.host.sw → t.host.sw = s.host.sw ∧ t.host.cntSw = s.host.cntSw ∧ t.host.todo = rest) ∧
        (s.host.tmpA ≠ s.host.sw → t.host.sw = s.host.tmpA ∧ t.host.cntSw = s.host.cntSw + 1 ∧
          t.host.todo = [.readIndicator, .writeIndicator (1#32 <<< s.cfg.swIndBit.val)] ++ rest)) ∧
    (s.host.todo = .compareButtons :: rest →
      ∃ t, step s = .next t ∧
        (s.host.tmpB = s.host.btn → t.host.btn = s.host.btn ∧ t.host.cntBtn = s.host.cntBtn ∧ t.host.todo = rest) ∧
        (s.host.tmpB ≠ s.host.btn → t.host.btn = s.host.tmpB ∧ t.host.cntBtn = s.host.cntBtn + 1 ∧
          t.host.todo = [.readIndicator, .writeIndicator (1#32 <<< s.cfg.btnIndBit.val)] ++ rest))

/-- R66, R67, R70 (the fault is the model's, log 25): a data access of the host software to a cell that does not exist stops
the machine: the reads of both data registers, and the read and the write of the indicator's data register. -/
def Obligations.HostReadOutsideTheWindowFaults : Prop :=
  ∀ (s : State) (rest : List HostOp), Ready s → s.port = none →
    (∀ d, s.host.todo = .readData1 d :: rest → ¬ InWindow s.cfg d s.cfg.gpioData1Off →
      step s = .fault (.hostAccessOutsideWindow d s.cfg.gpioData1Off)) ∧
    (∀ d, s.host.todo = .readData2 d :: rest → ¬ InWindow s.cfg d s.cfg.gpioData2Off →
      step s = .fault (.hostAccessOutsideWindow d s.cfg.gpioData2Off)) ∧
    (s.host.todo = .readIndicator :: rest → ¬ InWindow s.cfg 1 s.cfg.gpioData1Off →
      step s = .fault (.hostAccessOutsideWindow 1 s.cfg.gpioData1Off)) ∧
    (∀ mask, s.host.todo = .writeIndicator mask :: rest → ¬ InWindow s.cfg 1 s.cfg.gpioData1Off →
      step s = .fault (.hostAccessOutsideWindow 1 s.cfg.gpioData1Off))
end

