-- ==== Sys2Proof/Laws/Store.lean ====
section
/-! SUPPORT. The laws of the sparse store: read after write, and that a write keeps the canonical form. -/

namespace Sys2Proof.Machine

theorem Store.get?_set_self {K V : Type} [DecidableEq K] (lt : K → K → Bool) (k : K) (v : V) (m : Store K V) :
    Store.get? (Store.set lt k v m) k = some v := by
  induction m with
  | nil => simp [Store.set, Store.get?]
  | cons e m ih =>
    obtain ⟨k', v'⟩ := e
    by_cases h : k = k'
    · simp [Store.set, Store.get?, h]
    · by_cases h' : lt k k' = true <;> simp [Store.set, Store.get?, h, h', ih]

theorem Store.get?_set_ne {K V : Type} [DecidableEq K] (lt : K → K → Bool) {k j : K} (v : V) (m : Store K V)
    (h : j ≠ k) : Store.get? (Store.set lt k v m) j = Store.get? m j := by
  induction m with
  | nil => simp [Store.set, Store.get?, h]
  | cons e m ih =>
    obtain ⟨k', v'⟩ := e
    by_cases hk : k = k'
    · subst hk; simp [Store.set, Store.get?, h]
    · by_cases h' : lt k k' = true
      · simp [Store.set, Store.get?, hk, h', h]
      · by_cases hj : j = k' <;> simp [Store.set, Store.get?, hk, h', hj, ih]

/-- The laws of a strict order on keys that a write needs. -/
structure KeyOrder {K : Type} (lt : K → K → Bool) : Prop where
  trans : ∀ a b c, lt a b = true → lt b c = true → lt a c = true
  total : ∀ a b, a ≠ b → lt a b = false → lt b a = true

theorem natLt_order : KeyOrder natLt where
  trans a b c := by simp only [natLt, decide_eq_true_eq]; omega
  total a b := by simp only [natLt, decide_eq_false_iff_not, decide_eq_true_eq]; omega

theorem cellLt_order : KeyOrder cellLt where
  trans a b c := by simp only [cellLt, Bool.or_eq_true, Bool.and_eq_true, decide_eq_true_eq]; omega
  total a b := by
    obtain ⟨a1, a2⟩ := a
    obtain ⟨b1, b2⟩ := b
    simp only [ne_eq, Prod.mk.injEq, cellLt, Bool.or_eq_false_iff, Bool.and_eq_false_iff, decide_eq_false_iff_not,
      Bool.or_eq_true, Bool.and_eq_true, decide_eq_true_eq]
    omega

/-- How a write acts on a non-empty store. -/
theorem Store.set_cons {K V : Type} [DecidableEq K] (lt : K → K → Bool) (k : K) (v : V) (k' : K) (v' : V)
    (m : Store K V) :
    (k = k' ∧ Store.set lt k v ((k', v') :: m) = (k, v) :: m) ∨
    (k ≠ k' ∧ lt k k' = true ∧ Store.set lt k v ((k', v') :: m) = (k, v) :: (k', v') :: m) ∨
    (k ≠ k' ∧ lt k k' = false ∧ Store.set lt k v ((k', v') :: m) = (k', v') :: Store.set lt k v m) := by
  by_cases hk : k = k'
  · exact .inl ⟨hk, by simp [Store.set, hk]⟩
  · cases h : lt k k'
    · exact .inr (.inr ⟨hk, rfl, by simp [Store.set, hk, h]⟩)
    · exact .inr (.inl ⟨hk, rfl, by simp [Store.set, hk, h]⟩)

/-- A write's entries are the old ones and the new one. -/
theorem Store.mem_set {K V : Type} [DecidableEq K] {lt : K → K → Bool} {k : K} {v : V} {m : Store K V} {e : K × V}
    (h : e ∈ Store.set lt k v m) : e = (k, v) ∨ e ∈ m := by
  induction m with
  | nil => simpa [Store.set] using h
  | cons f m ih =>
    obtain ⟨k', v'⟩ := f
    rcases Store.set_cons lt k v k' v' m with ⟨-, hs⟩ | ⟨-, -, hs⟩ | ⟨-, -, hs⟩ <;> rw [hs] at h <;>
      rcases List.mem_cons.1 h with h | h
    · exact .inl h
    · exact .inr (List.mem_cons_of_mem _ h)
    · exact .inl h
    · exact .inr h
    · exact .inr (h ▸ List.mem_cons_self)
    · exact (ih h).imp id (List.mem_cons_of_mem _)

theorem Store.sorted_cons {K V : Type} {lt : K → K → Bool} {k : K} {v : V} {m : Store K V} :
    Store.sorted lt ((k, v) :: m) = true ↔ (∀ e ∈ m, lt k e.1 = true) ∧ Store.sorted lt m = true := by
  simp [Store.sorted]

theorem Store.sorted_set {K V : Type} [DecidableEq K] {lt : K → K → Bool} (o : KeyOrder lt) (k : K) (v : V)
    {m : Store K V} (h : Store.sorted lt m = true) : Store.sorted lt (Store.set lt k v m) = true := by
  induction m with
  | nil => simp [Store.set, Store.sorted]
  | cons e m ih =>
    obtain ⟨k', v'⟩ := e
    obtain ⟨hlt, hm⟩ := Store.sorted_cons.1 h
    rcases Store.set_cons lt k v k' v' m with ⟨hk, hs⟩ | ⟨-, h', hs⟩ | ⟨hk, h', hs⟩ <;> rw [hs, Store.sorted_cons]
    · exact ⟨hk ▸ hlt, hm⟩
    · refine ⟨fun e he => ?_, h⟩
      rcases List.mem_cons.1 he with rfl | he
      · exact h'
      · exact o.trans _ _ _ h' (hlt e he)
    · refine ⟨fun e he => ?_, ih hm⟩
      rcases Store.mem_set he with rfl | he
      · exact o.total _ _ hk h'
      · exact hlt e he

/-- In a sorted store the keys rise. -/
theorem Store.keys_rising {V : Type} {m : Store Nat V} (h : Store.sorted natLt m = true) :
    (Store.keys m).Pairwise (· < ·) := by
  induction m with
  | nil => simp [Store.keys]
  | cons e m ih =>
    obtain ⟨k, v⟩ := e
    simp only [Store.sorted, Bool.and_eq_true, List.all_eq_true, natLt, decide_eq_true_eq] at h
    simp only [Store.keys, List.map_cons, List.pairwise_cons, List.mem_map]
    refine ⟨?_, ih h.2⟩
    rintro _ ⟨x, hx, rfl⟩
    exact h.1 x hx

end Sys2Proof.Machine
end

