-- ==== Sys2Proof/Laws/State.lean ====
section
/-! SUPPORT. Every state update, field by field, and what the accessors read after each update. -/

namespace Sys2Proof.Machine

/-! ### setCell -/
@[simp] theorem setCell_cfg (s : State) (d i : Nat) (v : Word) : (s.setCell d i v).cfg = s.cfg := rfl
@[simp] theorem setCell_cmd (s : State) (d i : Nat) (v : Word) : (s.setCell d i v).cmd = s.cmd := rfl
@[simp] theorem setCell_busy (s : State) (d i : Nat) (v : Word) : (s.setCell d i v).busy = s.busy := rfl
@[simp] theorem setCell_k (s : State) (d i : Nat) (v : Word) : (s.setCell d i v).k = s.k := rfl
@[simp] theorem setCell_isrLatch (s : State) (d i : Nat) (v : Word) : (s.setCell d i v).isrLatch = s.isrLatch := rfl
@[simp] theorem setCell_failAcc (s : State) (d i : Nat) (v : Word) : (s.setCell d i v).failAcc = s.failAcc := rfl
@[simp] theorem setCell_result (s : State) (d i : Nat) (v : Word) : (s.setCell d i v).result = s.result := rfl
@[simp] theorem setCell_cp (s : State) (d i : Nat) (v : Word) : (s.setCell d i v).cp = s.cp := rfl
@[simp] theorem setCell_port (s : State) (d i : Nat) (v : Word) : (s.setCell d i v).port = s.port := rfl
@[simp] theorem setCell_bus (s : State) (d i : Nat) (v : Word) : (s.setCell d i v).bus = s.bus := rfl
@[simp] theorem setCell_cells (s : State) (d i : Nat) (v : Word) : (s.setCell d i v).cells = Store.set cellLt (d, i) v s.cells := rfl
@[simp] theorem setCell_pins (s : State) (d i : Nat) (v : Word) : (s.setCell d i v).pins = s.pins := rfl
@[simp] theorem setCell_freeReads (s : State) (d i : Nat) (v : Word) : (s.setCell d i v).freeReads = s.freeReads := rfl
@[simp] theorem setCell_endpoints (s : State) (d i : Nat) (v : Word) : (s.setCell d i v).endpoints = s.endpoints := rfl
@[simp] theorem setCell_devices (s : State) (d i : Nat) (v : Word) : (s.setCell d i v).devices = s.devices := rfl
@[simp] theorem setCell_gaps (s : State) (d i : Nat) (v : Word) : (s.setCell d i v).gaps = s.gaps := rfl
@[simp] theorem setCell_waitError (s : State) (d i : Nat) (v : Word) : (s.setCell d i v).waitError = s.waitError := rfl
@[simp] theorem setCell_host (s : State) (d i : Nat) (v : Word) : (s.setCell d i v).host = s.host := rfl
@[simp] theorem setCell_pin (s : State) (d i : Nat) (v : Word) (j : Nat) (c : GpioChannel) : (s.setCell d i v).pin j c = s.pin j c := rfl
@[simp] theorem setCell_endpoint (s : State) (d i : Nat) (v : Word) (j : Nat) : (s.setCell d i v).endpoint j = s.endpoint j := rfl
@[simp] theorem setCell_deviceState (s : State) (d i : Nat) (v : Word) (j : Nat) : (s.setCell d i v).deviceState j = s.deviceState j := rfl

/-! ### setPin -/
@[simp] theorem setPin_cfg (s : State) (d : Nat) (ch : GpioChannel) (v : Word) : (s.setPin d ch v).cfg = s.cfg := rfl
@[simp] theorem setPin_cmd (s : State) (d : Nat) (ch : GpioChannel) (v : Word) : (s.setPin d ch v).cmd = s.cmd := rfl
@[simp] theorem setPin_busy (s : State) (d : Nat) (ch : GpioChannel) (v : Word) : (s.setPin d ch v).busy = s.busy := rfl
@[simp] theorem setPin_k (s : State) (d : Nat) (ch : GpioChannel) (v : Word) : (s.setPin d ch v).k = s.k := rfl
@[simp] theorem setPin_isrLatch (s : State) (d : Nat) (ch : GpioChannel) (v : Word) : (s.setPin d ch v).isrLatch = s.isrLatch := rfl
@[simp] theorem setPin_failAcc (s : State) (d : Nat) (ch : GpioChannel) (v : Word) : (s.setPin d ch v).failAcc = s.failAcc := rfl
@[simp] theorem setPin_result (s : State) (d : Nat) (ch : GpioChannel) (v : Word) : (s.setPin d ch v).result = s.result := rfl
@[simp] theorem setPin_cp (s : State) (d : Nat) (ch : GpioChannel) (v : Word) : (s.setPin d ch v).cp = s.cp := rfl
@[simp] theorem setPin_port (s : State) (d : Nat) (ch : GpioChannel) (v : Word) : (s.setPin d ch v).port = s.port := rfl
@[simp] theorem setPin_bus (s : State) (d : Nat) (ch : GpioChannel) (v : Word) : (s.setPin d ch v).bus = s.bus := rfl
@[simp] theorem setPin_cells (s : State) (d : Nat) (ch : GpioChannel) (v : Word) : (s.setPin d ch v).cells = s.cells := rfl
@[simp] theorem setPin_pins (s : State) (d : Nat) (ch : GpioChannel) (v : Word) : (s.setPin d ch v).pins = Store.set cellLt (d, ch.number) v s.pins := rfl
@[simp] theorem setPin_freeReads (s : State) (d : Nat) (ch : GpioChannel) (v : Word) : (s.setPin d ch v).freeReads = s.freeReads := rfl
@[simp] theorem setPin_endpoints (s : State) (d : Nat) (ch : GpioChannel) (v : Word) : (s.setPin d ch v).endpoints = s.endpoints := rfl
@[simp] theorem setPin_devices (s : State) (d : Nat) (ch : GpioChannel) (v : Word) : (s.setPin d ch v).devices = s.devices := rfl
@[simp] theorem setPin_gaps (s : State) (d : Nat) (ch : GpioChannel) (v : Word) : (s.setPin d ch v).gaps = s.gaps := rfl
@[simp] theorem setPin_waitError (s : State) (d : Nat) (ch : GpioChannel) (v : Word) : (s.setPin d ch v).waitError = s.waitError := rfl
@[simp] theorem setPin_host (s : State) (d : Nat) (ch : GpioChannel) (v : Word) : (s.setPin d ch v).host = s.host := rfl
@[simp] theorem setPin_cell (s : State) (d : Nat) (ch : GpioChannel) (v : Word) (j l : Nat) : (s.setPin d ch v).cell j l = s.cell j l := rfl
@[simp] theorem setPin_endpoint (s : State) (d : Nat) (ch : GpioChannel) (v : Word) (j : Nat) : (s.setPin d ch v).endpoint j = s.endpoint j := rfl
@[simp] theorem setPin_deviceState (s : State) (d : Nat) (ch : GpioChannel) (v : Word) (j : Nat) : (s.setPin d ch v).deviceState j = s.deviceState j := rfl

/-! ### setEndpoint -/
@[simp] theorem setEndpoint_cfg (s : State) (d : Nat) (e : Endpoint) : (s.setEndpoint d e).cfg = s.cfg := rfl
@[simp] theorem setEndpoint_cmd (s : State) (d : Nat) (e : Endpoint) : (s.setEndpoint d e).cmd = s.cmd := rfl
@[simp] theorem setEndpoint_busy (s : State) (d : Nat) (e : Endpoint) : (s.setEndpoint d e).busy = s.busy := rfl
@[simp] theorem setEndpoint_k (s : State) (d : Nat) (e : Endpoint) : (s.setEndpoint d e).k = s.k := rfl
@[simp] theorem setEndpoint_isrLatch (s : State) (d : Nat) (e : Endpoint) : (s.setEndpoint d e).isrLatch = s.isrLatch := rfl
@[simp] theorem setEndpoint_failAcc (s : State) (d : Nat) (e : Endpoint) : (s.setEndpoint d e).failAcc = s.failAcc := rfl
@[simp] theorem setEndpoint_result (s : State) (d : Nat) (e : Endpoint) : (s.setEndpoint d e).result = s.result := rfl
@[simp] theorem setEndpoint_cp (s : State) (d : Nat) (e : Endpoint) : (s.setEndpoint d e).cp = s.cp := rfl
@[simp] theorem setEndpoint_port (s : State) (d : Nat) (e : Endpoint) : (s.setEndpoint d e).port = s.port := rfl
@[simp] theorem setEndpoint_bus (s : State) (d : Nat) (e : Endpoint) : (s.setEndpoint d e).bus = s.bus := rfl
@[simp] theorem setEndpoint_cells (s : State) (d : Nat) (e : Endpoint) : (s.setEndpoint d e).cells = s.cells := rfl
@[simp] theorem setEndpoint_pins (s : State) (d : Nat) (e : Endpoint) : (s.setEndpoint d e).pins = s.pins := rfl
@[simp] theorem setEndpoint_freeReads (s : State) (d : Nat) (e : Endpoint) : (s.setEndpoint d e).freeReads = s.freeReads := rfl
@[simp] theorem setEndpoint_endpoints (s : State) (d : Nat) (e : Endpoint) : (s.setEndpoint d e).endpoints = Store.set natLt d e s.endpoints := rfl
@[simp] theorem setEndpoint_devices (s : State) (d : Nat) (e : Endpoint) : (s.setEndpoint d e).devices = s.devices := rfl
@[simp] theorem setEndpoint_gaps (s : State) (d : Nat) (e : Endpoint) : (s.setEndpoint d e).gaps = s.gaps := rfl
@[simp] theorem setEndpoint_waitError (s : State) (d : Nat) (e : Endpoint) : (s.setEndpoint d e).waitError = s.waitError := rfl
@[simp] theorem setEndpoint_host (s : State) (d : Nat) (e : Endpoint) : (s.setEndpoint d e).host = s.host := rfl
@[simp] theorem setEndpoint_cell (s : State) (d : Nat) (e : Endpoint) (j l : Nat) : (s.setEndpoint d e).cell j l = s.cell j l := rfl
@[simp] theorem setEndpoint_pin (s : State) (d : Nat) (e : Endpoint) (j : Nat) (c : GpioChannel) : (s.setEndpoint d e).pin j c = s.pin j c := rfl
@[simp] theorem setEndpoint_deviceState (s : State) (d : Nat) (e : Endpoint) (j : Nat) : (s.setEndpoint d e).deviceState j = s.deviceState j := rfl

/-! ### setDeviceState -/
@[simp] theorem setDeviceState_cfg (s : State) (d : Nat) (x : DeviceState) : (s.setDeviceState d x).cfg = s.cfg := rfl
@[simp] theorem setDeviceState_cmd (s : State) (d : Nat) (x : DeviceState) : (s.setDeviceState d x).cmd = s.cmd := rfl
@[simp] theorem setDeviceState_busy (s : State) (d : Nat) (x : DeviceState) : (s.setDeviceState d x).busy = s.busy := rfl
@[simp] theorem setDeviceState_k (s : State) (d : Nat) (x : DeviceState) : (s.setDeviceState d x).k = s.k := rfl
@[simp] theorem setDeviceState_isrLatch (s : State) (d : Nat) (x : DeviceState) : (s.setDeviceState d x).isrLatch = s.isrLatch := rfl
@[simp] theorem setDeviceState_failAcc (s : State) (d : Nat) (x : DeviceState) : (s.setDeviceState d x).failAcc = s.failAcc := rfl
@[simp] theorem setDeviceState_result (s : State) (d : Nat) (x : DeviceState) : (s.setDeviceState d x).result = s.result := rfl
@[simp] theorem setDeviceState_cp (s : State) (d : Nat) (x : DeviceState) : (s.setDeviceState d x).cp = s.cp := rfl
@[simp] theorem setDeviceState_port (s : State) (d : Nat) (x : DeviceState) : (s.setDeviceState d x).port = s.port := rfl
@[simp] theorem setDeviceState_bus (s : State) (d : Nat) (x : DeviceState) : (s.setDeviceState d x).bus = s.bus := rfl
@[simp] theorem setDeviceState_cells (s : State) (d : Nat) (x : DeviceState) : (s.setDeviceState d x).cells = s.cells := rfl
@[simp] theorem setDeviceState_pins (s : State) (d : Nat) (x : DeviceState) : (s.setDeviceState d x).pins = s.pins := rfl
@[simp] theorem setDeviceState_freeReads (s : State) (d : Nat) (x : DeviceState) : (s.setDeviceState d x).freeReads = s.freeReads := rfl
@[simp] theorem setDeviceState_endpoints (s : State) (d : Nat) (x : DeviceState) : (s.setDeviceState d x).endpoints = s.endpoints := rfl
@[simp] theorem setDeviceState_devices (s : State) (d : Nat) (x : DeviceState) : (s.setDeviceState d x).devices = Store.set natLt d x s.devices := rfl
@[simp] theorem setDeviceState_gaps (s : State) (d : Nat) (x : DeviceState) : (s.setDeviceState d x).gaps = s.gaps := rfl
@[simp] theorem setDeviceState_waitError (s : State) (d : Nat) (x : DeviceState) : (s.setDeviceState d x).waitError = s.waitError := rfl
@[simp] theorem setDeviceState_host (s : State) (d : Nat) (x : DeviceState) : (s.setDeviceState d x).host = s.host := rfl
@[simp] theorem setDeviceState_cell (s : State) (d : Nat) (x : DeviceState) (j l : Nat) : (s.setDeviceState d x).cell j l = s.cell j l := rfl
@[simp] theorem setDeviceState_pin (s : State) (d : Nat) (x : DeviceState) (j : Nat) (c : GpioChannel) : (s.setDeviceState d x).pin j c = s.pin j c := rfl
@[simp] theorem setDeviceState_endpoint (s : State) (d : Nat) (x : DeviceState) (j : Nat) : (s.setDeviceState d x).endpoint j = s.endpoint j := rfl

/-! ### withHost -/
@[simp] theorem withHost_cfg (s : State) (h : HostSoftware) : (s.withHost h).cfg = s.cfg := rfl
@[simp] theorem withHost_cmd (s : State) (h : HostSoftware) : (s.withHost h).cmd = s.cmd := rfl
@[simp] theorem withHost_busy (s : State) (h : HostSoftware) : (s.withHost h).busy = s.busy := rfl
@[simp] theorem withHost_k (s : State) (h : HostSoftware) : (s.withHost h).k = s.k := rfl
@[simp] theorem withHost_isrLatch (s : State) (h : HostSoftware) : (s.withHost h).isrLatch = s.isrLatch := rfl
@[simp] theorem withHost_failAcc (s : State) (h : HostSoftware) : (s.withHost h).failAcc = s.failAcc := rfl
@[simp] theorem withHost_result (s : State) (h : HostSoftware) : (s.withHost h).result = s.result := rfl
@[simp] theorem withHost_cp (s : State) (h : HostSoftware) : (s.withHost h).cp = s.cp := rfl
@[simp] theorem withHost_port (s : State) (h : HostSoftware) : (s.withHost h).port = s.port := rfl
@[simp] theorem withHost_bus (s : State) (h : HostSoftware) : (s.withHost h).bus = s.bus := rfl
@[simp] theorem withHost_cells (s : State) (h : HostSoftware) : (s.withHost h).cells = s.cells := rfl
@[simp] theorem withHost_pins (s : State) (h : HostSoftware) : (s.withHost h).pins = s.pins := rfl
@[simp] theorem withHost_freeReads (s : State) (h : HostSoftware) : (s.withHost h).freeReads = s.freeReads := rfl
@[simp] theorem withHost_endpoints (s : State) (h : HostSoftware) : (s.withHost h).endpoints = s.endpoints := rfl
@[simp] theorem withHost_devices (s : State) (h : HostSoftware) : (s.withHost h).devices = s.devices := rfl
@[simp] theorem withHost_gaps (s : State) (h : HostSoftware) : (s.withHost h).gaps = s.gaps := rfl
@[simp] theorem withHost_waitError (s : State) (h : HostSoftware) : (s.withHost h).waitError = s.waitError := rfl
@[simp] theorem withHost_host (s : State) (h : HostSoftware) : (s.withHost h).host = h := rfl
@[simp] theorem withHost_cell (s : State) (h : HostSoftware) (j l : Nat) : (s.withHost h).cell j l = s.cell j l := rfl
@[simp] theorem withHost_pin (s : State) (h : HostSoftware) (j : Nat) (c : GpioChannel) : (s.withHost h).pin j c = s.pin j c := rfl
@[simp] theorem withHost_endpoint (s : State) (h : HostSoftware) (j : Nat) : (s.withHost h).endpoint j = s.endpoint j := rfl
@[simp] theorem withHost_deviceState (s : State) (h : HostSoftware) (j : Nat) : (s.withHost h).deviceState j = s.deviceState j := rfl

/-! ### record -/
@[simp] theorem record_cfg (s : State) (e : BusEvent) : (record e s).cfg = s.cfg := rfl
@[simp] theorem record_cmd (s : State) (e : BusEvent) : (record e s).cmd = s.cmd := rfl
@[simp] theorem record_busy (s : State) (e : BusEvent) : (record e s).busy = s.busy := rfl
@[simp] theorem record_k (s : State) (e : BusEvent) : (record e s).k = s.k := rfl
@[simp] theorem record_isrLatch (s : State) (e : BusEvent) : (record e s).isrLatch = s.isrLatch := rfl
@[simp] theorem record_failAcc (s : State) (e : BusEvent) : (record e s).failAcc = s.failAcc := rfl
@[simp] theorem record_result (s : State) (e : BusEvent) : (record e s).result = s.result := rfl
@[simp] theorem record_cp (s : State) (e : BusEvent) : (record e s).cp = s.cp := rfl
@[simp] theorem record_port (s : State) (e : BusEvent) : (record e s).port = s.port := rfl
@[simp] theorem record_bus (s : State) (e : BusEvent) : (record e s).bus = s.bus ++ [e] := rfl
@[simp] theorem record_cells (s : State) (e : BusEvent) : (record e s).cells = s.cells := rfl
@[simp] theorem record_pins (s : State) (e : BusEvent) : (record e s).pins = s.pins := rfl
@[simp] theorem record_freeReads (s : State) (e : BusEvent) : (record e s).freeReads = s.freeReads := rfl
@[simp] theorem record_endpoints (s : State) (e : BusEvent) : (record e s).endpoints = s.endpoints := rfl
@[simp] theorem record_devices (s : State) (e : BusEvent) : (record e s).devices = s.devices := rfl
@[simp] theorem record_gaps (s : State) (e : BusEvent) : (record e s).gaps = s.gaps := rfl
@[simp] theorem record_waitError (s : State) (e : BusEvent) : (record e s).waitError = s.waitError := rfl
@[simp] theorem record_host (s : State) (e : BusEvent) : (record e s).host = s.host := rfl
@[simp] theorem record_cell (s : State) (e : BusEvent) (j l : Nat) : (record e s).cell j l = s.cell j l := rfl
@[simp] theorem record_pin (s : State) (e : BusEvent) (j : Nat) (c : GpioChannel) : (record e s).pin j c = s.pin j c := rfl
@[simp] theorem record_endpoint (s : State) (e : BusEvent) (j : Nat) : (record e s).endpoint j = s.endpoint j := rfl
@[simp] theorem record_deviceState (s : State) (e : BusEvent) (j : Nat) : (record e s).deviceState j = s.deviceState j := rfl

/-! ### noteFailure -/
@[simp] theorem noteFailure_cfg (s : State) (b : Bool) : (noteFailure b s).cfg = s.cfg := rfl
@[simp] theorem noteFailure_cmd (s : State) (b : Bool) : (noteFailure b s).cmd = s.cmd := rfl
@[simp] theorem noteFailure_busy (s : State) (b : Bool) : (noteFailure b s).busy = s.busy := rfl
@[simp] theorem noteFailure_k (s : State) (b : Bool) : (noteFailure b s).k = s.k := rfl
@[simp] theorem noteFailure_isrLatch (s : State) (b : Bool) : (noteFailure b s).isrLatch = s.isrLatch := rfl
@[simp] theorem noteFailure_failAcc (s : State) (b : Bool) : (noteFailure b s).failAcc = (s.failAcc || b) := rfl
@[simp] theorem noteFailure_result (s : State) (b : Bool) : (noteFailure b s).result = s.result := rfl
@[simp] theorem noteFailure_cp (s : State) (b : Bool) : (noteFailure b s).cp = s.cp := rfl
@[simp] theorem noteFailure_port (s : State) (b : Bool) : (noteFailure b s).port = s.port := rfl
@[simp] theorem noteFailure_bus (s : State) (b : Bool) : (noteFailure b s).bus = s.bus := rfl
@[simp] theorem noteFailure_cells (s : State) (b : Bool) : (noteFailure b s).cells = s.cells := rfl
@[simp] theorem noteFailure_pins (s : State) (b : Bool) : (noteFailure b s).pins = s.pins := rfl
@[simp] theorem noteFailure_freeReads (s : State) (b : Bool) : (noteFailure b s).freeReads = s.freeReads := rfl
@[simp] theorem noteFailure_endpoints (s : State) (b : Bool) : (noteFailure b s).endpoints = s.endpoints := rfl
@[simp] theorem noteFailure_devices (s : State) (b : Bool) : (noteFailure b s).devices = s.devices := rfl
@[simp] theorem noteFailure_gaps (s : State) (b : Bool) : (noteFailure b s).gaps = s.gaps := rfl
@[simp] theorem noteFailure_waitError (s : State) (b : Bool) : (noteFailure b s).waitError = s.waitError := rfl
@[simp] theorem noteFailure_host (s : State) (b : Bool) : (noteFailure b s).host = s.host := rfl
@[simp] theorem noteFailure_cell (s : State) (b : Bool) (j l : Nat) : (noteFailure b s).cell j l = s.cell j l := rfl
@[simp] theorem noteFailure_pin (s : State) (b : Bool) (j : Nat) (c : GpioChannel) : (noteFailure b s).pin j c = s.pin j c := rfl
@[simp] theorem noteFailure_endpoint (s : State) (b : Bool) (j : Nat) : (noteFailure b s).endpoint j = s.endpoint j := rfl
@[simp] theorem noteFailure_deviceState (s : State) (b : Bool) (j : Nat) : (noteFailure b s).deviceState j = s.deviceState j := rfl

/-! ### accept -/
@[simp] theorem accept_cfg (s : State) (w : CommandWord) : (accept w s).cfg = s.cfg := rfl
@[simp] theorem accept_cmd (s : State) (w : CommandWord) : (accept w s).cmd = w := rfl
@[simp] theorem accept_busy (s : State) (w : CommandWord) : (accept w s).busy = true := rfl
@[simp] theorem accept_k (s : State) (w : CommandWord) : (accept w s).k = 0 := rfl
@[simp] theorem accept_isrLatch (s : State) (w : CommandWord) : (accept w s).isrLatch = s.isrLatch := rfl
@[simp] theorem accept_failAcc (s : State) (w : CommandWord) : (accept w s).failAcc = false := rfl
@[simp] theorem accept_result (s : State) (w : CommandWord) : (accept w s).result = s.result := rfl
@[simp] theorem accept_cp (s : State) (w : CommandWord) : (accept w s).cp = s.cp := rfl
@[simp] theorem accept_port (s : State) (w : CommandWord) : (accept w s).port = s.port := rfl
@[simp] theorem accept_bus (s : State) (w : CommandWord) : (accept w s).bus = s.bus := rfl
@[simp] theorem accept_cells (s : State) (w : CommandWord) : (accept w s).cells = s.cells := rfl
@[simp] theorem accept_pins (s : State) (w : CommandWord) : (accept w s).pins = s.pins := rfl
@[simp] theorem accept_freeReads (s : State) (w : CommandWord) : (accept w s).freeReads = s.freeReads := rfl
@[simp] theorem accept_endpoints (s : State) (w : CommandWord) : (accept w s).endpoints = s.endpoints := rfl
@[simp] theorem accept_devices (s : State) (w : CommandWord) : (accept w s).devices = s.devices := rfl
@[simp] theorem accept_gaps (s : State) (w : CommandWord) : (accept w s).gaps = s.gaps := rfl
@[simp] theorem accept_waitError (s : State) (w : CommandWord) : (accept w s).waitError = s.waitError := rfl
@[simp] theorem accept_host (s : State) (w : CommandWord) : (accept w s).host = s.host := rfl
@[simp] theorem accept_cell (s : State) (w : CommandWord) (j l : Nat) : (accept w s).cell j l = s.cell j l := rfl
@[simp] theorem accept_pin (s : State) (w : CommandWord) (j : Nat) (c : GpioChannel) : (accept w s).pin j c = s.pin j c := rfl
@[simp] theorem accept_endpoint (s : State) (w : CommandWord) (j : Nat) : (accept w s).endpoint j = s.endpoint j := rfl
@[simp] theorem accept_deviceState (s : State) (w : CommandWord) (j : Nat) : (accept w s).deviceState j = s.deviceState j := rfl

/-! ### complete -/
@[simp] theorem complete_cfg (s : State) (c : ResultCode) : (complete c s).cfg = s.cfg := rfl
@[simp] theorem complete_cmd (s : State) (c : ResultCode) : (complete c s).cmd = s.cmd := rfl
@[simp] theorem complete_busy (s : State) (c : ResultCode) : (complete c s).busy = false := rfl
@[simp] theorem complete_k (s : State) (c : ResultCode) : (complete c s).k = 0 := rfl
@[simp] theorem complete_isrLatch (s : State) (c : ResultCode) : (complete c s).isrLatch = s.isrLatch := rfl
@[simp] theorem complete_failAcc (s : State) (c : ResultCode) : (complete c s).failAcc = s.failAcc := rfl
@[simp] theorem complete_result (s : State) (c : ResultCode) : (complete c s).result = c.bits := rfl
@[simp] theorem complete_cp (s : State) (c : ResultCode) : (complete c s).cp = s.cp + 1 := rfl
@[simp] theorem complete_port (s : State) (c : ResultCode) : (complete c s).port = s.port := rfl
@[simp] theorem complete_bus (s : State) (c : ResultCode) : (complete c s).bus = s.bus := rfl
@[simp] theorem complete_cells (s : State) (c : ResultCode) : (complete c s).cells = s.cells := rfl
@[simp] theorem complete_pins (s : State) (c : ResultCode) : (complete c s).pins = s.pins := rfl
@[simp] theorem complete_freeReads (s : State) (c : ResultCode) : (complete c s).freeReads = s.freeReads := rfl
@[simp] theorem complete_endpoints (s : State) (c : ResultCode) : (complete c s).endpoints = s.endpoints := rfl
@[simp] theorem complete_devices (s : State) (c : ResultCode) : (complete c s).devices = s.devices := rfl
@[simp] theorem complete_gaps (s : State) (c : ResultCode) : (complete c s).gaps = s.gaps := rfl
@[simp] theorem complete_waitError (s : State) (c : ResultCode) : (complete c s).waitError = s.waitError := rfl
@[simp] theorem complete_host (s : State) (c : ResultCode) : (complete c s).host = s.host := rfl
@[simp] theorem complete_cell (s : State) (c : ResultCode) (j l : Nat) : (complete c s).cell j l = s.cell j l := rfl
@[simp] theorem complete_pin (s : State) (c : ResultCode) (j : Nat) (q : GpioChannel) : (complete c s).pin j q = s.pin j q := rfl
@[simp] theorem complete_endpoint (s : State) (c : ResultCode) (j : Nat) : (complete c s).endpoint j = s.endpoint j := rfl
@[simp] theorem complete_deviceState (s : State) (c : ResultCode) (j : Nat) : (complete c s).deviceState j = s.deviceState j := rfl

/-! ### presentCommand -/
@[simp] theorem presentCommand_cfg (s : State) (i : Instr) : (presentCommand i s).cfg = s.cfg := rfl
@[simp] theorem presentCommand_cmd (s : State) (i : Instr) : (presentCommand i s).cmd = s.cmd := rfl
@[simp] theorem presentCommand_busy (s : State) (i : Instr) : (presentCommand i s).busy = s.busy := rfl
@[simp] theorem presentCommand_k (s : State) (i : Instr) : (presentCommand i s).k = s.k := rfl
@[simp] theorem presentCommand_isrLatch (s : State) (i : Instr) : (presentCommand i s).isrLatch = s.isrLatch := rfl
@[simp] theorem presentCommand_failAcc (s : State) (i : Instr) : (presentCommand i s).failAcc = s.failAcc := rfl
@[simp] theorem presentCommand_result (s : State) (i : Instr) : (presentCommand i s).result = s.result := rfl
@[simp] theorem presentCommand_cp (s : State) (i : Instr) : (presentCommand i s).cp = s.cp := rfl
@[simp] theorem presentCommand_port (s : State) (i : Instr) : (presentCommand i s).port = some (encode i) := rfl
@[simp] theorem presentCommand_bus (s : State) (i : Instr) : (presentCommand i s).bus = s.bus := rfl
@[simp] theorem presentCommand_cells (s : State) (i : Instr) : (presentCommand i s).cells = s.cells := rfl
@[simp] theorem presentCommand_pins (s : State) (i : Instr) : (presentCommand i s).pins = s.pins := rfl
@[simp] theorem presentCommand_freeReads (s : State) (i : Instr) : (presentCommand i s).freeReads = s.freeReads := rfl
@[simp] theorem presentCommand_endpoints (s : State) (i : Instr) : (presentCommand i s).endpoints = s.endpoints := rfl
@[simp] theorem presentCommand_devices (s : State) (i : Instr) : (presentCommand i s).devices = s.devices := rfl
@[simp] theorem presentCommand_gaps (s : State) (i : Instr) : (presentCommand i s).gaps = s.gaps := rfl
@[simp] theorem presentCommand_waitError (s : State) (i : Instr) : (presentCommand i s).waitError = s.waitError := rfl
@[simp] theorem presentCommand_host (s : State) (i : Instr) : (presentCommand i s).host = s.host := rfl
@[simp] theorem presentCommand_cell (s : State) (i : Instr) (j l : Nat) : (presentCommand i s).cell j l = s.cell j l := rfl
@[simp] theorem presentCommand_pin (s : State) (i : Instr) (j : Nat) (c : GpioChannel) : (presentCommand i s).pin j c = s.pin j c := rfl
@[simp] theorem presentCommand_endpoint (s : State) (i : Instr) (j : Nat) : (presentCommand i s).endpoint j = s.endpoint j := rfl
@[simp] theorem presentCommand_deviceState (s : State) (i : Instr) (j : Nat) : (presentCommand i s).deviceState j = s.deviceState j := rfl

/-! ### Accessors after the update of their own store -/

@[simp] theorem setCell_cell_self (s : State) (d i : Nat) (v : Word) : (s.setCell d i v).cell d i = v := by
  simp [State.cell, Store.get?_set_self]

theorem setCell_cell_ne (s : State) {d i d' i' : Nat} (v : Word) (h : ¬(d' = d ∧ i' = i)) :
    (s.setCell d i v).cell d' i' = s.cell d' i' := by
  have : (d', i') ≠ (d, i) := by simpa using h
  simp [State.cell, Store.get?_set_ne cellLt v s.cells this]

theorem GpioChannel.number_inj {a b : GpioChannel} : a.number = b.number ↔ a = b := by
  cases a <;> cases b <;> simp [GpioChannel.number]

@[simp] theorem setPin_pin_self (s : State) (d : Nat) (ch : GpioChannel) (v : Word) : (s.setPin d ch v).pin d ch = v := by
  simp [State.pin, Store.get?_set_self]

theorem setPin_pin_ne (s : State) {d d' : Nat} {ch ch' : GpioChannel} (v : Word) (h : ¬(d' = d ∧ ch' = ch)) :
    (s.setPin d ch v).pin d' ch' = s.pin d' ch' := by
  have : (d', ch'.number) ≠ (d, ch.number) := by simpa [GpioChannel.number_inj] using h
  simp [State.pin, Store.get?_set_ne cellLt v s.pins this]

@[simp] theorem setEndpoint_endpoint_self (s : State) (d : Nat) (e : Endpoint) : (s.setEndpoint d e).endpoint d = e := by
  simp [State.endpoint, Store.get?_set_self]

theorem setEndpoint_endpoint_ne (s : State) {d d' : Nat} (e : Endpoint) (h : d' ≠ d) :
    (s.setEndpoint d e).endpoint d' = s.endpoint d' := by
  simp [State.endpoint, Store.get?_set_ne natLt e s.endpoints h]

@[simp] theorem setDeviceState_deviceState_self (s : State) (d : Nat) (x : DeviceState) :
    (s.setDeviceState d x).deviceState d = x := by
  simp [State.deviceState, Store.get?_set_self]

theorem setDeviceState_deviceState_ne (s : State) {d d' : Nat} (x : DeviceState) (h : d' ≠ d) :
    (s.setDeviceState d x).deviceState d' = s.deviceState d' := by
  simp [State.deviceState, Store.get?_set_ne natLt x s.devices h]

end Sys2Proof.Machine
end

