-- ==== Sys2Proof/Laws/Env.lean ====
section
/-! SUPPORT. Bus accesses and the environment: what one access and one gap can do, said once. -/

namespace Sys2Proof.Machine

/-! ### Registers -/

theorem hasStatus_regAt {c : Config} {d : Nat} (h : hasStatus c d = true) : regAt c d c.gpioIsrOff = .isr := by
  simp only [hasStatus, Bool.and_eq_true, Bool.not_eq_true'] at h
  simp [regAt, h.2, gpioRegAt]

theorem regAt_gpioIsr {c : Config} {d : Nat} (h : isPwm c d = false) : regAt c d c.gpioIsrOff = .isr := by
  simp [regAt, h, gpioRegAt]

/-- A PWM window has no interrupt-status register. -/
theorem regAt_ne_isr_of_isPwm {c : Config} {d : Nat} (h : isPwm c d = true) (i : Nat) : regAt c d i ≠ .isr := by
  simp only [regAt, h, if_true, pwmRegAt]
  split_ifs <;> simp

theorem cellLegal_iff {c : Config} {d i : Nat} : cellLegal c d i = true ↔ InWindow c d i := by
  simp [cellLegal, InWindow, and_assoc]

/-! ### Accesses -/

@[simp] theorem written_isr (old v : Word) : written .isr old v = old &&& ~~~v := rfl
@[simp] theorem written_unknown (old v : Word) : written .unknown old v = old := rfl

theorem written_plain {r : RegName} (h1 : r ≠ .isr) (h2 : r ≠ .unknown) (old v : Word) : written r old v = v := by
  cases r <;> simp_all [written]

/-- The cell after a write, whatever register it is. -/
theorem memWrite_cell_self (d i : Nat) (v : Word) (s : State) :
    (memWrite d i v s).cell d i = written (regAt s.cfg d i) (s.cell d i) v := by
  unfold memWrite
  split
  · next h => simp [h]
  · simp

theorem memWrite_cell_ne {d i d' i' : Nat} (v : Word) (s : State) (h : ¬(d' = d ∧ i' = i)) :
    (memWrite d i v s).cell d' i' = s.cell d' i' := by
  unfold memWrite
  split
  · rfl
  · exact setCell_cell_ne s _ h

/-- A write changes the cells alone. -/
theorem memWrite_eq (d i : Nat) (v : Word) (s : State) : ∃ m, memWrite d i v s = { s with cells := m } := by
  unfold memWrite
  split
  · exact ⟨s.cells, rfl⟩
  · exact ⟨_, rfl⟩

/-- A read changes the read counter alone. -/
theorem afterRead_eq (s : State) (d i : Nat) : ∃ n, afterRead s d i = { s with freeReads := n } := by
  unfold afterRead
  split
  · exact ⟨_, rfl⟩
  · exact ⟨s.freeReads, rfl⟩

/-! ### Frames compose -/

theorem HostKept.refl (s : State) : HostKept s s := ⟨rfl, id⟩

theorem HostKept.trans {s t u : State} (h : HostKept s t) (h' : HostKept t u) : HostKept s u := by
  refine ⟨?_, fun hq => h'.2 (h.2 hq)⟩
  rw [h'.1, h.1]

theorem KeptOrDelivered.trans {s t u : State} {d : Nat} (hc : t.cfg = s.cfg) (h : KeptOrDelivered s t d)
    (h' : KeptOrDelivered t u d) : KeptOrDelivered s u d := by
  rcases h with h | ⟨h1, h2, h3⟩
  · simpa only [KeptOrDelivered, h, hc] using h'
  · rcases h' with h' | ⟨-, h', -⟩
    · exact .inr ⟨h1, h2, h'.trans h3⟩
    · simp [h3] at h'

theorem Frame.refl (P : Nat → Nat → Prop) (N : Nat → Prop) (s : State) : Frame P N s s where
  cfg := rfl
  port := rfl
  host := .refl s
  cells _ _ _ _ := rfl
  status _ _ _ := by simp
  endpoints _ _ := .inl rfl
  quiet h := ⟨h, rfl, rfl, rfl, fun _ _ _ => rfl, fun _ _ => rfl⟩

theorem status_trans {a b c : Word} (h : a &&& b = a) (h' : b &&& c = b) : a &&& c = a := by
  calc a &&& c = (a &&& b) &&& c := by rw [h]
    _ = a := by rw [BitVec.and_assoc, h', h]

theorem Frame.trans {P : Nat → Nat → Prop} {N : Nat → Prop} {s t u : State} (h : Frame P N s t) (h' : Frame P N t u) :
    Frame P N s u where
  cfg := h'.cfg.trans h.cfg
  port := h'.port.trans h.port
  host := h.host.trans h'.host
  cells d i hp hr := (h'.cells d i hp (h.cfg ▸ hr)).trans (h.cells d i hp hr)
  status d i hp := status_trans (h.status d i hp) (h'.status d i hp)
  endpoints d hn := (h.endpoints d hn).trans h.cfg (h'.endpoints d hn)
  quiet hg := by
    obtain ⟨a1, a2, a3, a4, a5, a6⟩ := h.quiet hg
    obtain ⟨b1, b2, b3, b4, b5, b6⟩ := h'.quiet a1
    exact ⟨b1, b2.trans a2, b3.trans a3, b4.trans a4, fun d i hp => (b5 d i hp).trans (a5 d i hp),
      fun d hn => (b6 d hn).trans (a6 d hn)⟩

theorem Frame.mono {P Q : Nat → Nat → Prop} {N M : Nat → Prop} {s t : State} (h : Frame P N s t)
    (hP : ∀ d i, P d i → Q d i) (hN : ∀ d, N d → M d) : Frame Q M s t where
  cfg := h.cfg
  port := h.port
  host := h.host
  cells d i hq := h.cells d i fun hp => hq (hP d i hp)
  status d i hq := h.status d i fun hp => hq (hP d i hp)
  endpoints d hm := h.endpoints d fun hn => hm (hN d hn)
  quiet hg := by
    obtain ⟨a1, a2, a3, a4, a5, a6⟩ := h.quiet hg
    exact ⟨a1, a2, a3, a4, fun d i hq => a5 d i fun hp => hq (hP d i hp), fun d hm => a6 d fun hn => hm (hN d hn)⟩

/-! ### The environment's moves -/

/-- What one or more moves of the environment leave alone. -/
structure EnvKept (s t : State) : Prop where
  cfg       : t.cfg = s.cfg
  port      : t.port = s.port
  gaps      : t.gaps = s.gaps
  block     : BlockKept s t
  freeReads : t.freeReads = s.freeReads
  host      : HostKept s t
  cells     : ∀ d i, regAt s.cfg d i ≠ .isr → t.cell d i = s.cell d i
  status    : ∀ d i, s.cell d i &&& t.cell d i = s.cell d i
  endpoints : ∀ d, KeptOrDelivered s t d

theorem BlockKept.refl (s : State) : BlockKept s s := ⟨rfl, rfl, rfl, rfl, rfl, rfl, rfl, rfl, rfl⟩

theorem BlockKept.trans {s t u : State} (h : BlockKept s t) (h' : BlockKept t u) : BlockKept s u :=
  ⟨h'.1.trans h.1, h'.2.trans h.2, h'.3.trans h.3, h'.4.trans h.4, h'.5.trans h.5, h'.6.trans h.6, h'.7.trans h.7,
    h'.8.trans h.8, h'.9.trans h.9⟩

theorem EnvKept.refl (s : State) : EnvKept s s where
  cfg := rfl
  port := rfl
  gaps := rfl
  block := .refl s
  freeReads := rfl
  host := .refl s
  cells _ _ _ := rfl
  status _ _ := by simp
  endpoints _ := .inl rfl

theorem EnvKept.trans {s t u : State} (h : EnvKept s t) (h' : EnvKept t u) : EnvKept s u where
  cfg := h'.cfg.trans h.cfg
  port := h'.port.trans h.port
  gaps := h'.gaps.trans h.gaps
  block := h.block.trans h'.block
  freeReads := h'.freeReads.trans h.freeReads
  host := h.host.trans h'.host
  cells d i hr := (h'.cells d i (h.cfg ▸ hr)).trans (h.cells d i hr)
  status d i := status_trans (h.status d i) (h'.status d i)
  endpoints d := (h.endpoints d).trans h.cfg (h'.endpoints d)

/-- A status register that gains bits. -/
theorem and_or_self (a b : Word) : a &&& (a ||| b) = a := by
  ext i hi
  simp only [BitVec.getElem_and, BitVec.getElem_or]
  cases a[i] <;> simp

theorem envStep_kept (e : EnvStep) (s : State) : EnvKept s (envStep e s) := by
  cases e with
  | raiseStatus d bits =>
    by_cases h : hasStatus s.cfg d = true
    · have hr := hasStatus_regAt h
      have he : envStep (.raiseStatus d bits) s =
          s.setCell d s.cfg.gpioIsrOff (s.cell d s.cfg.gpioIsrOff ||| bits) := by simp [envStep, h]
      rw [he]
      refine ⟨rfl, rfl, rfl, ⟨rfl, rfl, rfl, rfl, rfl, rfl, rfl, rfl, rfl⟩, rfl, .refl s, fun d' i' hne => ?_,
        fun d' i' => ?_, fun _ => .inl rfl⟩
      · refine setCell_cell_ne s _ ?_
        rintro ⟨rfl, rfl⟩
        exact hne hr
      · by_cases hx : d' = d ∧ i' = s.cfg.gpioIsrOff
        · rw [hx.1, hx.2, setCell_cell_self, and_or_self]
        · rw [setCell_cell_ne s _ hx, BitVec.and_self]
    · have he : envStep (.raiseStatus d bits) s = s := by simp [envStep, h]
      rw [he]
      exact .refl s
  | setInputs d ch level =>
    exact ⟨rfl, rfl, rfl, ⟨rfl, rfl, rfl, rfl, rfl, rfl, rfl, rfl, rfl⟩, rfl, .refl s, fun _ _ _ => rfl,
      fun d i => BitVec.and_self, fun _ => .inl rfl⟩
  | deliver d =>
    by_cases h : (s.cfg.hasHandle d && hasStatus s.cfg d && lineAsserted s d && !(s.endpoint d).masked) = true
    · have he : envStep (.deliver d) s = s.setEndpoint d ⟨true, true, (s.endpoint d).count + 1⟩ := by
        simp only [envStep, h, if_true]
      rw [he]
      refine ⟨rfl, rfl, rfl, ⟨rfl, rfl, rfl, rfl, rfl, rfl, rfl, rfl, rfl⟩, rfl, .refl s, fun _ _ _ => rfl,
        fun d i => BitVec.and_self, fun d' => ?_⟩
      by_cases hd : d' = d
      · subst hd
        simp only [Bool.and_eq_true, Bool.not_eq_true'] at h
        exact .inr ⟨h.1.1.1, h.2, setEndpoint_endpoint_self _ _ _⟩
      · exact .inl (setEndpoint_endpoint_ne s _ hd)
    · have he : envStep (.deliver d) s = s := by simp only [envStep, h]; rfl
      rw [he]
      exact .refl s
  | quitSignal =>
    exact ⟨rfl, rfl, rfl, ⟨rfl, rfl, rfl, rfl, rfl, rfl, rfl, rfl, rfl⟩, rfl, ⟨rfl, fun _ => rfl⟩, fun _ _ _ => rfl,
      fun d i => BitVec.and_self, fun _ => .inl rfl⟩
  | waitFails =>
    exact ⟨rfl, rfl, rfl, ⟨rfl, rfl, rfl, rfl, rfl, rfl, rfl, rfl, rfl⟩, rfl, .refl s, fun _ _ _ => rfl,
      fun d i => BitVec.and_self, fun _ => .inl rfl⟩

theorem envSteps_kept (es : List EnvStep) (s : State) : EnvKept s (envSteps es s) := by
  induction es generalizing s with
  | nil => exact .refl s
  | cons e es ih => exact (envStep_kept e s).trans (ih _)

/-- A gap of a quiet environment does nothing. -/
theorem envGap_quiet {s : State} (h : s.gaps = []) : envGap s = s := by
  unfold envGap
  rw [h]

/-- What one gap leaves alone, but for the script itself. -/
theorem envGap_kept (s : State) : EnvKept { s with gaps := s.gaps.tail } (envGap s) := by
  unfold envGap
  split
  · next h =>
    have : { s with gaps := s.gaps.tail } = s := by rw [h, List.tail_nil, ← h]
    rw [this]
    exact .refl s
  · next g gs h => rw [h, List.tail_cons]; exact envSteps_kept g _

@[simp] theorem envGap_cfg (s : State) : (envGap s).cfg = s.cfg := (envGap_kept s).cfg
@[simp] theorem envGap_port (s : State) : (envGap s).port = s.port := (envGap_kept s).port
@[simp] theorem envGap_gaps (s : State) : (envGap s).gaps = s.gaps.tail := (envGap_kept s).gaps
@[simp] theorem envGap_cmd (s : State) : (envGap s).cmd = s.cmd := (envGap_kept s).block.cmd
@[simp] theorem envGap_busy (s : State) : (envGap s).busy = s.busy := (envGap_kept s).block.busy
@[simp] theorem envGap_k (s : State) : (envGap s).k = s.k := (envGap_kept s).block.k
@[simp] theorem envGap_isrLatch (s : State) : (envGap s).isrLatch = s.isrLatch := (envGap_kept s).block.isrLatch
@[simp] theorem envGap_failAcc (s : State) : (envGap s).failAcc = s.failAcc := (envGap_kept s).block.failAcc
@[simp] theorem envGap_result (s : State) : (envGap s).result = s.result := (envGap_kept s).block.result
@[simp] theorem envGap_cp (s : State) : (envGap s).cp = s.cp := (envGap_kept s).block.cp
@[simp] theorem envGap_bus (s : State) : (envGap s).bus = s.bus := (envGap_kept s).block.bus
@[simp] theorem envGap_devices (s : State) : (envGap s).devices = s.devices := (envGap_kept s).block.devices
@[simp] theorem envGap_freeReads (s : State) : (envGap s).freeReads = s.freeReads := (envGap_kept s).freeReads

theorem envGap_cell {s : State} {d i : Nat} (h : regAt s.cfg d i ≠ .isr) : (envGap s).cell d i = s.cell d i :=
  (envGap_kept s).cells d i h

theorem envGap_status (s : State) (d i : Nat) : s.cell d i &&& (envGap s).cell d i = s.cell d i :=
  (envGap_kept s).status d i

theorem envGap_frame (s : State) : Frame NoCell NoEndpoint s (envGap s) where
  cfg := envGap_cfg s
  port := envGap_port s
  host := (envGap_kept s).host
  cells _ _ _ h := envGap_cell h
  status d i _ := envGap_status s d i
  endpoints d _ := (envGap_kept s).endpoints d
  quiet h := by rw [envGap_quiet h]; exact ⟨h, rfl, rfl, rfl, fun _ _ _ => rfl, fun _ _ => rfl⟩

theorem envGap_blockKept (s : State) : BlockKept s (envGap s) := by
  constructor <;> simp

/-! ### The environment does not see the block's registers -/

/-- Two states that differ at most in the block's registers, its record, the device states, the port and the read
counter. -/
structure SameEnv (s t : State) : Prop where
  cfg       : t.cfg = s.cfg
  cells     : t.cells = s.cells
  pins      : t.pins = s.pins
  endpoints : t.endpoints = s.endpoints
  gaps      : t.gaps = s.gaps
  waitError : t.waitError = s.waitError
  host      : t.host = s.host

theorem SameEnv.refl (s : State) : SameEnv s s := ⟨rfl, rfl, rfl, rfl, rfl, rfl, rfl⟩

theorem SameEnv.trans {s t u : State} (h : SameEnv s t) (h' : SameEnv t u) : SameEnv s u :=
  ⟨h'.1.trans h.1, h'.2.trans h.2, h'.3.trans h.3, h'.4.trans h.4, h'.5.trans h.5, h'.6.trans h.6, h'.7.trans h.7⟩

theorem SameEnv.cell {s t : State} (h : SameEnv s t) (d i : Nat) : t.cell d i = s.cell d i := by
  simp only [State.cell, h.cells]

theorem SameEnv.endpoint {s t : State} (h : SameEnv s t) (d : Nat) : t.endpoint d = s.endpoint d := by
  simp only [State.endpoint, h.endpoints]

theorem envStep_same {s t : State} (h : SameEnv s t) (e : EnvStep) : SameEnv (envStep e s) (envStep e t) := by
  obtain ⟨h1, h2, h3, h4, h5, h6, h7⟩ := h
  cases e with
  | raiseStatus d bits =>
    simp only [envStep, h1, State.cell, h2]
    split_ifs
    · exact ⟨h1, by simp [State.setCell, h2], h3, h4, h5, h6, h7⟩
    · exact ⟨h1, h2, h3, h4, h5, h6, h7⟩
  | setInputs d ch level => exact ⟨h1, h2, by simp [envStep, State.setPin, h3], h4, h5, h6, h7⟩
  | deliver d =>
    have hc : (t.cfg.hasHandle d && hasStatus t.cfg d && lineAsserted t d && !(t.endpoint d).masked) =
        (s.cfg.hasHandle d && hasStatus s.cfg d && lineAsserted s d && !(s.endpoint d).masked) := by
      simp only [lineAsserted, h1, State.cell, h2, State.endpoint, h4]
    have he : t.endpoint d = s.endpoint d := by simp only [State.endpoint, h4]
    rw [he] at hc
    simp only [envStep, he, hc]
    by_cases h : (s.cfg.hasHandle d && hasStatus s.cfg d && lineAsserted s d && !(s.endpoint d).masked) = true
    · simp only [if_pos h]
      exact ⟨h1, h2, h3, by simp [State.setEndpoint, h4], h5, h6, h7⟩
    · simp only [if_neg h]
      exact ⟨h1, h2, h3, h4, h5, h6, h7⟩
  | quitSignal => exact ⟨h1, h2, h3, h4, h5, h6, by simp [envStep, h7]⟩
  | waitFails => exact ⟨h1, h2, h3, h4, h5, rfl, h7⟩

theorem envSteps_same {s t : State} (h : SameEnv s t) (es : List EnvStep) :
    SameEnv (envSteps es s) (envSteps es t) := by
  induction es generalizing s t with
  | nil => exact h
  | cons e es ih => exact ih (envStep_same h e)

theorem envGap_same {s t : State} (h : SameEnv s t) : SameEnv (envGap s) (envGap t) := by
  unfold envGap
  rw [h.gaps]
  split
  · exact h
  · next gs _ =>
    have h' : SameEnv { s with gaps := gs } { t with gaps := gs } := ⟨h.1, h.2, h.3, h.4, rfl, h.6, h.7⟩
    exact envSteps_same h' _

end Sys2Proof.Machine
end

