-- ==== Sys2Proof/Laws/Command.lean ====
section
/-! SUPPORT. The life of a command: what one micro-step, a sequence of them, acceptance and completion can do. -/

namespace Sys2Proof.Machine

/-- The cell a micro-step writes. -/
def MicroOp.Touches (c : Config) (m : MicroOp) (d i : Nat) : Prop :=
  match m with
  | .write d' i' _ => d = d' ∧ i = i'
  | .writeLatch d' => d = d' ∧ i = c.gpioIsrOff
  | .readStatus _ => False
  | .notify _ => False
  | .delay _ => False

/-- The endpoint a micro-step writes. -/
def MicroOp.Notifies (m : MicroOp) (d : Nat) : Prop :=
  match m with
  | .notify d' => d = d'
  | .write _ _ _ => False
  | .writeLatch _ => False
  | .readStatus _ => False
  | .delay _ => False

/-! ### One micro-step -/

theorem frame_of_cells {P : Nat → Nat → Prop} {N : Nat → Prop} {s t : State} (hcfg : t.cfg = s.cfg)
    (hport : t.port = s.port) (hhost : t.host = s.host) (hgaps : t.gaps = s.gaps) (hpins : t.pins = s.pins)
    (hw : t.waitError = s.waitError) (hc : ∀ d i, ¬ P d i → t.cell d i = s.cell d i)
    (he : ∀ d, ¬ N d → t.endpoint d = s.endpoint d) : Frame P N s t where
  cfg := hcfg
  port := hport
  host := by rw [HostKept, hhost]; exact ⟨rfl, id⟩
  cells d i hp _ := hc d i hp
  status d i hp := by rw [hc d i hp, BitVec.and_self]
  endpoints d hn := .inl (he d hn)
  quiet hg := ⟨hgaps.trans hg, hpins, hw, hhost, hc, he⟩

theorem memWrite_frame (d i : Nat) (v : Word) (s : State) (e : BusEvent) :
    Frame (fun d' i' => d' = d ∧ i' = i) NoEndpoint s (record e (memWrite d i v s)) := by
  obtain ⟨m, hm⟩ := memWrite_eq d i v s
  refine frame_of_cells (by rw [hm]; rfl) (by rw [hm]; rfl) (by rw [hm]; rfl) (by rw [hm]; rfl) (by rw [hm]; rfl)
    (by rw [hm]; rfl) (fun d' i' h => ?_) (fun d' _ => by rw [hm]; rfl)
  rw [record_cell, memWrite_cell_ne v s h]

theorem microEffect_frame (m : MicroOp) (s : State) :
    Frame (m.Touches s.cfg) m.Notifies s (microEffect m s) := by
  cases m with
  | write d i v => exact (memWrite_frame d i v s _).mono (fun _ _ h => h) (fun _ h => h)
  | readStatus d =>
    obtain ⟨n, hn⟩ := afterRead_eq s d s.cfg.gpioIsrOff
    refine frame_of_cells ?_ ?_ ?_ ?_ ?_ ?_ (fun _ _ _ => ?_) (fun _ _ => ?_) <;> simp only [microEffect, hn] <;> rfl
  | writeLatch d => exact (memWrite_frame d s.cfg.gpioIsrOff s.isrLatch s _).mono (fun _ _ h => h) (fun _ h => h)
  | notify d =>
    exact frame_of_cells rfl rfl rfl rfl rfl rfl (fun _ _ _ => rfl) fun d' h => setEndpoint_endpoint_ne s _ h
  | delay T => exact frame_of_cells rfl rfl rfl rfl rfl rfl (fun _ _ _ => rfl) (fun _ _ => rfl)

/-- The record of a micro-step. -/
def MicroOp.event (m : MicroOp) (s : State) : BusEvent :=
  match m with
  | .write d i v => .write d i v
  | .readStatus d => .read d s.cfg.gpioIsrOff (readValue s d s.cfg.gpioIsrOff)
  | .writeLatch d => .write d s.cfg.gpioIsrOff s.isrLatch
  | .notify d => .notify d ackBytes
  | .delay T => .delay T

/-- What a micro-step's effect does to the block's registers. -/
theorem microEffect_block (m : MicroOp) (s : State) :
    (microEffect m s).cmd = s.cmd ∧ (microEffect m s).busy = s.busy ∧ (microEffect m s).k = s.k ∧
    (microEffect m s).failAcc = s.failAcc ∧ (microEffect m s).result = s.result ∧ (microEffect m s).cp = s.cp ∧
    (microEffect m s).devices = s.devices ∧ (microEffect m s).bus = s.bus ++ [m.event s] ∧
    ((∀ d, m ≠ .readStatus d) → (microEffect m s).isrLatch = s.isrLatch ∧
      (microEffect m s).freeReads = s.freeReads) := by
  cases m with
  | write d i v =>
    obtain ⟨c, hc⟩ := memWrite_eq d i v s
    simp [microEffect, hc, record, MicroOp.event]
  | readStatus d =>
    obtain ⟨n, hn⟩ := afterRead_eq s d s.cfg.gpioIsrOff
    simp [microEffect, hn, record, MicroOp.event]
  | writeLatch d =>
    obtain ⟨c, hc⟩ := memWrite_eq d s.cfg.gpioIsrOff s.isrLatch s
    simp [microEffect, hc, record, MicroOp.event]
  | notify d => simp [microEffect, notifyWrite, MicroOp.event]
  | delay T => simp [microEffect, MicroOp.event]

theorem noteFailure_frame (b : Bool) (s : State) : Frame NoCell NoEndpoint s (noteFailure b s) :=
  frame_of_cells rfl rfl rfl rfl rfl rfl (fun _ _ _ => rfl) (fun _ _ => rfl)

/-- The state a micro-step's effect acts on: after the failed sub-calls and the gap before it. -/
def beforeEffect (m : MicroStep) (s : State) : State := envGap (noteFailure m.failedBefore s)

theorem doMicro_eq (m : MicroStep) (s : State) :
    doMicro m s = { microEffect m.op (beforeEffect m s) with k := (microEffect m.op (beforeEffect m s)).k + 1 } := rfl

theorem beforeEffect_frame (m : MicroStep) (s : State) : Frame NoCell NoEndpoint s (beforeEffect m s) :=
  (noteFailure_frame _ s).trans (envGap_frame _)

@[simp] theorem beforeEffect_cfg (m : MicroStep) (s : State) : (beforeEffect m s).cfg = s.cfg := (beforeEffect_frame m s).cfg

theorem doMicro_frame (m : MicroStep) (s : State) : Frame (m.op.Touches s.cfg) m.op.Notifies s (doMicro m s) := by
  have h1 : Frame (m.op.Touches s.cfg) m.op.Notifies s (beforeEffect m s) :=
    (beforeEffect_frame m s).mono (fun _ _ h => h.elim) (fun _ h => h.elim)
  have h2 := microEffect_frame m.op (beforeEffect m s)
  rw [beforeEffect_cfg] at h2
  have h3 : Frame (m.op.Touches s.cfg) m.op.Notifies (microEffect m.op (beforeEffect m s)) (doMicro m s) :=
    frame_of_cells rfl rfl rfl rfl rfl rfl (fun _ _ _ => rfl) (fun _ _ => rfl)
  exact (h1.trans h2).trans h3

theorem doMicro_cell (m : MicroStep) (s : State) (d i : Nat) :
    (doMicro m s).cell d i = (microEffect m.op (beforeEffect m s)).cell d i := rfl

theorem doMicro_endpoint (m : MicroStep) (s : State) (d : Nat) :
    (doMicro m s).endpoint d = (microEffect m.op (beforeEffect m s)).endpoint d := rfl

/-- What a micro-step does to the block's registers. -/
theorem doMicro_block (m : MicroStep) (s : State) :
    (doMicro m s).cmd = s.cmd ∧ (doMicro m s).busy = s.busy ∧ (doMicro m s).k = s.k + 1 ∧
    (doMicro m s).failAcc = (s.failAcc || m.failedBefore) ∧ (doMicro m s).result = s.result ∧
    (doMicro m s).cp = s.cp ∧ (doMicro m s).devices = s.devices ∧
    (doMicro m s).bus = s.bus ++ [m.op.event (beforeEffect m s)] ∧
    ((∀ d, m.op ≠ .readStatus d) → (doMicro m s).isrLatch = s.isrLatch ∧ (doMicro m s).freeReads = s.freeReads) := by
  obtain ⟨h1, h2, h3, h4, h5, h6, h7, h8, h9⟩ := microEffect_block m.op (beforeEffect m s)
  have e1 : (beforeEffect m s).cmd = s.cmd := by simp [beforeEffect]
  have e2 : (beforeEffect m s).busy = s.busy := by simp [beforeEffect]
  have e3 : (beforeEffect m s).k = s.k := by simp [beforeEffect]
  have e4 : (beforeEffect m s).failAcc = (s.failAcc || m.failedBefore) := by simp [beforeEffect]
  have e5 : (beforeEffect m s).result = s.result := by simp [beforeEffect]
  have e6 : (beforeEffect m s).cp = s.cp := by simp [beforeEffect]
  have e7 : (beforeEffect m s).devices = s.devices := by simp [beforeEffect]
  have e8 : (beforeEffect m s).bus = s.bus := by simp [beforeEffect]
  have e9 : (beforeEffect m s).isrLatch = s.isrLatch := by simp [beforeEffect]
  have e10 : (beforeEffect m s).freeReads = s.freeReads := by simp [beforeEffect]
  refine ⟨h1.trans e1, h2.trans e2, ?_, h4.trans e4, h5.trans e5, h6.trans e6, h7.trans e7, ?_, fun hne => ?_⟩
  · show (microEffect m.op (beforeEffect m s)).k + 1 = s.k + 1
    rw [h3, e3]
  · show (microEffect m.op (beforeEffect m s)).bus = _
    rw [h8, e8]
  · exact ⟨(h9 hne).1.trans e9, (h9 hne).2.trans e10⟩

/-! ### All micro-steps -/

theorem doMicros_frame (ms : List MicroStep) (s : State) :
    Frame (fun d i => ∃ m ∈ ms, m.op.Touches s.cfg d i) (fun d => ∃ m ∈ ms, m.op.Notifies d) s (doMicros ms s) := by
  induction ms generalizing s with
  | nil => exact .refl _ _ s
  | cons m ms ih =>
    have h1 := (doMicro_frame m s).mono (Q := fun d i => ∃ m' ∈ m :: ms, m'.op.Touches s.cfg d i)
      (M := fun d => ∃ m' ∈ m :: ms, m'.op.Notifies d) (fun _ _ h => ⟨m, List.mem_cons_self, h⟩)
      (fun _ h => ⟨m, List.mem_cons_self, h⟩)
    have h2 := (ih (doMicro m s)).mono (Q := fun d i => ∃ m' ∈ m :: ms, m'.op.Touches s.cfg d i)
      (M := fun d => ∃ m' ∈ m :: ms, m'.op.Notifies d)
      (fun _ _ ⟨m', hm, h⟩ => ⟨m', List.mem_cons_of_mem _ hm, by rw [(doMicro_frame m s).cfg] at h; exact h⟩)
      (fun _ ⟨m', hm, h⟩ => ⟨m', List.mem_cons_of_mem _ hm, h⟩)
    exact h1.trans h2

/-- What the micro-steps do to the block's registers. -/
theorem doMicros_block (ms : List MicroStep) (s : State) :
    (doMicros ms s).cmd = s.cmd ∧ (doMicros ms s).busy = s.busy ∧
    (doMicros ms s).k = s.k + BitVec.ofNat 8 ms.length ∧
    (doMicros ms s).failAcc = (s.failAcc || ms.any (·.failedBefore)) ∧ (doMicros ms s).result = s.result ∧
    (doMicros ms s).cp = s.cp ∧ (doMicros ms s).devices = s.devices ∧
    ((∀ m ∈ ms, ∀ d, m.op ≠ .readStatus d) →
      (doMicros ms s).isrLatch = s.isrLatch ∧ (doMicros ms s).freeReads = s.freeReads) := by
  induction ms generalizing s with
  | nil => simp [doMicros]
  | cons m ms ih =>
    obtain ⟨h1, h2, h3, h4, h5, h6, h7, -, h9⟩ := doMicro_block m s
    obtain ⟨g1, g2, g3, g4, g5, g6, g7, g9⟩ := ih (doMicro m s)
    refine ⟨g1.trans h1, g2.trans h2, ?_, ?_, g5.trans h5, g6.trans h6, g7.trans h7, fun hne => ?_⟩
    · show (doMicros ms (doMicro m s)).k = _
      rw [g3, h3, List.length_cons, BitVec.ofNat_add, BitVec.add_assoc, BitVec.add_comm 1]
      rfl
    · show (doMicros ms (doMicro m s)).failAcc = _
      rw [g4, h4, List.any_cons, Bool.or_assoc]
    · have hm := h9 (hne m List.mem_cons_self)
      have hms := g9 fun m' hm' => hne m' (List.mem_cons_of_mem _ hm')
      exact ⟨hms.1.trans hm.1, hms.2.trans hm.2⟩

/-- The record of micro-steps whose events need no state (all but the two accesses of a REACKNOWLEDGE). -/
theorem doMicros_bus (f : MicroOp → BusEvent) (ms : List MicroStep) (s : State)
    (h : ∀ m ∈ ms, ∀ t, m.op.event t = f m.op) : (doMicros ms s).bus = s.bus ++ ms.map fun m => f m.op := by
  induction ms generalizing s with
  | nil => simp [doMicros]
  | cons m ms ih =>
    have hb := (doMicro_block m s).2.2.2.2.2.2.2.1
    rw [h m List.mem_cons_self] at hb
    show (doMicros ms (doMicro m s)).bus = _
    rw [ih _ fun m' hm' => h m' (List.mem_cons_of_mem _ hm'), hb]
    simp

theorem doMicros_append (ms ns : List MicroStep) (s : State) :
    doMicros (ms ++ ns) s = doMicros ns (doMicros ms s) := by
  induction ms generalizing s with
  | nil => rfl
  | cons m ms ih => exact ih _

/-! ### Whole commands -/

theorem runCommand_ready {w : CommandWord} {st : Start} {s : State} (h : Ready s) :
    runCommand w st s = .next (runStart st (accept w s)) := by
  simp [runCommand, h.1, h.2]

/-- A command that answers a next state was presented to a ready block, and the state is that of its run. -/
theorem runCommand_next {w : CommandWord} {st : Start} {s t : State} (h : runCommand w st s = .next t) :
    Ready s ∧ t = runStart st (accept w s) := by
  unfold runCommand at h
  split at h
  · cases h
  · split at h
    · cases h
    · next h1 h2 =>
      cases h
      exact ⟨⟨by simpa using h1, by simpa using h2⟩, rfl⟩

theorem accept_frame (P : Nat → Nat → Prop) (N : Nat → Prop) (w : CommandWord) (s : State) : Frame P N s (accept w s) :=
  frame_of_cells rfl rfl rfl rfl rfl rfl (fun _ _ _ => rfl) (fun _ _ => rfl)

theorem complete_frame (P : Nat → Nat → Prop) (N : Nat → Prop) (c : ResultCode) (s : State) : Frame P N s (complete c s) :=
  frame_of_cells rfl rfl rfl rfl rfl rfl (fun _ _ _ => rfl) (fun _ _ => rfl)

theorem armDevice_frame (P : Nat → Nat → Prop) (N : Nat → Prop) (a : Option Nat) (s : State) :
    Frame P N s (armDevice a s) := by
  cases a <;> exact frame_of_cells rfl rfl rfl rfl rfl rfl (fun _ _ _ => rfl) (fun _ _ => rfl)

theorem finish_frame (P : Nat → Nat → Prop) (N : Nat → Prop) (p : Plan) (s : State) : Frame P N s (finish p s) := by
  have h1 : Frame P N s (noteFailure p.failedAfter s) :=
    (noteFailure_frame _ s).mono (fun _ _ h => h.elim) (fun _ h => h.elim)
  exact (h1.trans (armDevice_frame P N p.arms _)).trans (complete_frame P N _ _)

/-- The cells and endpoints that a command's micro-steps write are all that it touches. -/
theorem runStart_frame (w : CommandWord) (p : Plan) (s : State) :
    Frame (fun d i => ∃ m ∈ p.steps, m.op.Touches s.cfg d i) (fun d => ∃ m ∈ p.steps, m.op.Notifies d) s
      (runStart (.run p) (accept w s)) :=
  ((accept_frame _ _ w s).trans (doMicros_frame p.steps (accept w s))).trans (finish_frame _ _ p _)

theorem finish_cell (p : Plan) (s : State) (d i : Nat) : (finish p s).cell d i = s.cell d i := by
  unfold finish
  cases p.arms <;> rfl

theorem finish_endpoint (p : Plan) (s : State) (d : Nat) : (finish p s).endpoint d = s.endpoint d := by
  unfold finish
  cases p.arms <;> rfl

theorem finish_kept (p : Plan) (s : State) : (finish p s).bus = s.bus ∧ (finish p s).isrLatch = s.isrLatch ∧
    (finish p s).freeReads = s.freeReads ∧ (finish p s).cmd = s.cmd ∧ (finish p s).busy = false ∧ (finish p s).k = 0 ∧
    (finish p s).cp = s.cp + 1 ∧ (finish p s).failAcc = (s.failAcc || p.failedAfter) := by
  unfold finish
  cases p.arms <;> exact ⟨rfl, rfl, rfl, rfl, rfl, rfl, rfl, rfl⟩

theorem finish_result (p : Plan) (s : State) : (finish p s).result =
    match p.ending with
    | .ok => 0
    | .byFailAcc => if s.failAcc || p.failedAfter then 1 else 0 := by
  unfold finish
  cases p.arms <;> cases p.ending <;> cases h : (s.failAcc || p.failedAfter) <;>
    simp [EndCode.code, ResultCode.bits, armDevice, h]

end Sys2Proof.Machine
end

