-- ==== Sys2Proof/Laws/Encoding.lean ====
section
/-! SUPPORT. The fields of a packed word, and a word from its fields (R91). -/

namespace Sys2Proof

/-- One bit of a packed word. -/
theorem pack_getLsbD (opc sel idx rsv : Byte) (data : Word) (n : Nat) :
    (pack opc sel idx rsv data).getLsbD n =
      if n < 32 then data.getLsbD n
      else if n < 40 then rsv.getLsbD (n - 32)
      else if n < 48 then idx.getLsbD (n - 40)
      else if n < 56 then sel.getLsbD (n - 48)
      else opc.getLsbD (n - 56) := by
  show BitVec.getLsbD (w := 8 + 8 + 8 + 8 + 32) (opc ++ sel ++ idx ++ rsv ++ data) n = _
  simp only [BitVec.getLsbD_append]
  split_ifs <;> first | rfl | omega

theorem fieldOpc_pack (opc sel idx rsv : Byte) (data : Word) : fieldOpc (pack opc sel idx rsv data) = opc := by
  apply BitVec.eq_of_getLsbD_eq
  intro n hn
  rw [fieldOpc, BitVec.getLsbD_extractLsb', pack_getLsbD]
  simp [hn, show ¬ 56 + n < 32 by omega, show ¬ 56 + n < 40 by omega, show ¬ 56 + n < 48 by omega]

theorem fieldSel_pack (opc sel idx rsv : Byte) (data : Word) : fieldSel (pack opc sel idx rsv data) = sel := by
  apply BitVec.eq_of_getLsbD_eq
  intro n hn
  rw [fieldSel, BitVec.getLsbD_extractLsb', pack_getLsbD]
  simp [hn, show ¬ 48 + n < 32 by omega, show ¬ 48 + n < 40 by omega, show 48 + n < 56 by omega]

theorem fieldIdx_pack (opc sel idx rsv : Byte) (data : Word) : fieldIdx (pack opc sel idx rsv data) = idx := by
  apply BitVec.eq_of_getLsbD_eq
  intro n hn
  rw [fieldIdx, BitVec.getLsbD_extractLsb', pack_getLsbD]
  simp [hn, show ¬ 40 + n < 32 by omega, show 40 + n < 48 by omega]

theorem fieldRsv_pack (opc sel idx rsv : Byte) (data : Word) : fieldRsv (pack opc sel idx rsv data) = rsv := by
  apply BitVec.eq_of_getLsbD_eq
  intro n hn
  rw [fieldRsv, BitVec.getLsbD_extractLsb', pack_getLsbD]
  simp [hn, show 32 + n < 40 by omega]

theorem fieldData_pack (opc sel idx rsv : Byte) (data : Word) : fieldData (pack opc sel idx rsv data) = data := by
  apply BitVec.eq_of_getLsbD_eq
  intro n hn
  rw [fieldData, BitVec.getLsbD_extractLsb', pack_getLsbD]
  simp [hn]

/-- A word is the pack of its five fields. -/
theorem pack_fields (w : CommandWord) : pack (fieldOpc w) (fieldSel w) (fieldIdx w) (fieldRsv w) (fieldData w) = w := by
  apply BitVec.eq_of_getLsbD_eq
  intro n hn
  rw [pack_getLsbD]
  simp only [fieldOpc, fieldSel, fieldIdx, fieldRsv, fieldData, BitVec.getLsbD_extractLsb']
  split_ifs with h1 h2 h3 h4
  · simp [h1]
  · simp [show n - 32 < 8 by omega, show 32 + (n - 32) = n by omega]
  · simp [show n - 40 < 8 by omega, show 40 + (n - 40) = n by omega]
  · simp [show n - 48 < 8 by omega, show 48 + (n - 48) = n by omega]
  · simp [show n - 56 < 8 by omega, show 56 + (n - 56) = n by omega]

/-- The operands inside DATA are parts of the field (R93). -/
theorem data_parts (w : CommandWord) :
    fieldHigh16 w = (fieldData w).extractLsb' 16 16 ∧ fieldHigh8 w = (fieldData w).extractLsb' 24 8 ∧
    fieldPercent w = (fieldData w).extractLsb' 0 16 ∧ fieldR w = (fieldData w).extractLsb' 16 8 ∧
    fieldG w = (fieldData w).extractLsb' 8 8 ∧ fieldB w = (fieldData w).extractLsb' 0 8 := by
  refine ⟨?_, ?_, ?_, ?_, ?_, ?_⟩ <;> apply BitVec.eq_of_getLsbD_eq <;> intro n hn <;>
    simp only [fieldHigh16, fieldHigh8, fieldPercent, fieldR, fieldG, fieldB, fieldData,
      BitVec.getLsbD_extractLsb'] <;> simp [hn] <;> omega

/-- The data word of SETLEDPERCENT: DATA[31:16] is 0, DATA[15:0] the percent (R93). -/
theorem percent_data (p : Percent) :
    ((0 : BitVec 16) ++ p : Word).extractLsb' 16 16 = 0 ∧ ((0 : BitVec 16) ++ p : Word).extractLsb' 0 16 = p := by
  have h (n : Nat) : BitVec.getLsbD (w := 16 + 16) ((0 : BitVec 16) ++ p) n = if n < 16 then p.getLsbD n else false := by
    rw [BitVec.getLsbD_append]
    split_ifs <;> simp
  refine ⟨?_, ?_⟩ <;> apply BitVec.eq_of_getLsbD_eq <;> intro n hn <;> rw [BitVec.getLsbD_extractLsb'] <;>
    erw [h] <;> simp [hn]

/-- The data word of SETPALETTE: DATA[31:24] is 0, then red, green, blue (R93). -/
theorem palette_data (r g b : Byte) :
    ((0 : Byte) ++ r ++ g ++ b : Word).extractLsb' 24 8 = 0 ∧ ((0 : Byte) ++ r ++ g ++ b : Word).extractLsb' 16 8 = r ∧
    ((0 : Byte) ++ r ++ g ++ b : Word).extractLsb' 8 8 = g ∧ ((0 : Byte) ++ r ++ g ++ b : Word).extractLsb' 0 8 = b := by
  have h (n : Nat) : BitVec.getLsbD (w := 8 + 8 + 8 + 8) ((0 : Byte) ++ r ++ g ++ b) n =
      if n < 8 then b.getLsbD n else if n < 16 then g.getLsbD (n - 8) else if n < 24 then r.getLsbD (n - 16)
      else false := by
    simp only [BitVec.getLsbD_append]
    split_ifs <;> first | rfl | omega | simp
  refine ⟨?_, ?_, ?_, ?_⟩ <;> apply BitVec.eq_of_getLsbD_eq <;> intro n hn <;> rw [BitVec.getLsbD_extractLsb'] <;>
    erw [h]
  · simp [hn, show ¬ 24 + n < 8 by omega, show ¬ 24 + n < 16 by omega]
  · simp [hn, show ¬ 16 + n < 8 by omega, show 16 + n < 24 by omega]
  · simp [hn, show 8 + n < 16 by omega]
  · simp [hn]

/-- Two words agree when their five fields do. -/
theorem word_ext {v w : CommandWord} (h1 : fieldOpc v = fieldOpc w) (h2 : fieldSel v = fieldSel w)
    (h3 : fieldIdx v = fieldIdx w) (h4 : fieldRsv v = fieldRsv w) (h5 : fieldData v = fieldData w) : v = w := by
  rw [← pack_fields v, ← pack_fields w, h1, h2, h3, h4, h5]

/-- Two packed words are equal exactly when their fields are. -/
theorem pack_inj {a b c d a' b' c' d' : Byte} {e e' : Word} :
    pack a b c d e = pack a' b' c' d' e' ↔ a = a' ∧ b = b' ∧ c = c' ∧ d = d' ∧ e = e' := by
  refine ⟨fun h => ⟨?_, ?_, ?_, ?_, ?_⟩, fun ⟨h1, h2, h3, h4, h5⟩ => by rw [h1, h2, h3, h4, h5]⟩
  · rw [← fieldOpc_pack a b c d e, h, fieldOpc_pack]
  · rw [← fieldSel_pack a b c d e, h, fieldSel_pack]
  · rw [← fieldIdx_pack a b c d e, h, fieldIdx_pack]
  · rw [← fieldRsv_pack a b c d e, h, fieldRsv_pack]
  · rw [← fieldData_pack a b c d e, h, fieldData_pack]

/-- Masking works field by field. -/
theorem pack_and (a b c d a' b' c' d' : Byte) (e e' : Word) :
    pack a b c d e &&& pack a' b' c' d' e' = pack (a &&& a') (b &&& b') (c &&& c') (d &&& d') (e &&& e') := by
  apply BitVec.eq_of_getLsbD_eq
  intro n hn
  simp only [BitVec.getLsbD_and, pack_getLsbD]
  split_ifs <;> rfl

end Sys2Proof
end

