-- ==== Sys2Proof/Laws/WellFormed.lean ====
section
/-! SUPPORT. What a well-formed configuration gives (R36), and which registers its cells are. -/

namespace Sys2Proof.Machine

/-- Every bank's slot exists, is mapped, and holds its control and period registers. -/
theorem wf_bank {c : Config} (h : c.wellFormed = true) {d : Nat} (hd : d ∈ c.pwmBanks) :
    InWindow c d c.pwmCtrlOff ∧ InWindow c d c.pwmPeriodOff ∧ isPwm c d = true := by
  simp only [Config.wellFormed, Bool.and_eq_true] at h
  have hb := h.1.1.1.1.1.1.1.1.2
  have hc := h.1.1.1.1.1.2
  simp only [Config.wfBanks, Bool.and_eq_true, List.all_eq_true, decide_eq_true_eq] at hb
  simp only [Config.wfBankCells, List.all_eq_true, Bool.and_eq_true, decide_eq_true_eq] at hc
  have h1 := hb.1.2 d hd
  have h2 := hc d hd
  exact ⟨⟨h1.1, h1.2, h2.1⟩, ⟨h1.1, h1.2, h2.2⟩, by simp [isPwm, hd]⟩

/-- Every tuple's duty register lies in the window of a bank. -/
theorem wf_chan {c : Config} (h : c.wellFormed = true) {ch : Channel} (hch : ch ∈ c.chan) :
    dutySlot c ch ∈ c.pwmBanks ∧ InWindow c (dutySlot c ch) (dutyCell c ch) ∧
    dutyCell c ch ≠ c.pwmCtrlOff ∧ dutyCell c ch ≠ c.pwmPeriodOff := by
  have hw := h
  simp only [Config.wellFormed, Bool.and_eq_true] at h
  have hcells := h.1.1.1.1.1.1.2
  have hd := h.1.1.1.2
  simp only [Config.wfChanCells, List.all_eq_true] at hcells
  simp only [Config.wfDistinct, Bool.and_eq_true, List.all_eq_true, decide_eq_true_eq] at hd
  have h1 := hcells ch hch
  rw [Option.any_eq_true] at h1
  obtain ⟨d, hd1, hd2⟩ := h1
  rw [decide_eq_true_eq] at hd2
  have hslot : dutySlot c ch = d := by simp [dutySlot, bankSlot, hd1]
  have hmem : d ∈ c.pwmBanks := List.mem_of_getElem? hd1
  have hb := wf_bank hw hmem
  rw [hslot]
  exact ⟨hmem, ⟨hb.1.1, hb.1.2.1, hd2⟩, (hd.1.1.2 ch hch).1, (hd.1.1.2 ch hch).2⟩

theorem wf_ctrl_ne_period {c : Config} (h : c.wellFormed = true) : c.pwmCtrlOff ≠ c.pwmPeriodOff := by
  simp only [Config.wellFormed, Bool.and_eq_true] at h
  have hd := h.1.1.1.2
  simp only [Config.wfDistinct, Bool.and_eq_true, decide_eq_true_eq] at hd
  have := hd.1.1.1
  simp only [List.nodup_cons, List.mem_cons, not_or] at this
  exact this.1.1

theorem wf_gpio_nodup {c : Config} (h : c.wellFormed = true) :
    [c.gpioData1Off, c.gpioTri1Off, c.gpioData2Off, c.gpioTri2Off, c.gpioGierOff, c.gpioIsrOff, c.gpioIerOff].Nodup := by
  simp only [Config.wellFormed, Bool.and_eq_true] at h
  have hd := h.1.1.1.2
  simp only [Config.wfDistinct, Bool.and_eq_true, decide_eq_true_eq] at hd
  exact hd.1.2

theorem wf_length {c : Config} (h : c.wellFormed = true) : 2 * c.nBank + c.nChan ≤ 255 := by
  simp only [Config.wellFormed, Bool.and_eq_true] at h
  simpa [Config.wfPlanLength] using h.1.1.2

theorem wf_nDev {c : Config} (h : c.wellFormed = true) : c.nDev ≤ 256 := by
  simp only [Config.wellFormed, Bool.and_eq_true] at h
  have := h.1.1.1.1.1.1.1.1.1
  simp only [Config.wfDevCount, Bool.and_eq_true, decide_eq_true_eq] at this
  exact this.2

theorem wf_nBank {c : Config} (h : c.wellFormed = true) : 1 ≤ c.nBank := by
  simp only [Config.wellFormed, Bool.and_eq_true] at h
  have hb := h.1.1.1.1.1.1.1.1.2
  simp only [Config.wfBanks, Bool.and_eq_true, decide_eq_true_eq] at hb
  exact hb.1.1

/-- In a PWM window the control, period and duty cells are plain registers. -/
theorem pwm_plain {c : Config} {d i : Nat} (hp : isPwm c d = true)
    (hi : i = c.pwmCtrlOff ∨ i = c.pwmPeriodOff ∨ (c.pwmDutyBase ≤ i ∧ i < c.pwmDutyBase + 256)) :
    regAt c d i ≠ .isr ∧ regAt c d i ≠ .unknown := by
  refine ⟨regAt_ne_isr_of_isPwm hp i, ?_⟩
  simp only [regAt, hp, if_true, pwmRegAt]
  split_ifs with h1 h2 h3
  · simp
  · simp
  · simp
  · rcases hi with h | h | h
    · exact absurd h h1
    · exact absurd h h2
    · exact absurd h h3

theorem duty_plain {c : Config} {d : Nat} (idx : Byte) (hp : isPwm c d = true) :
    regAt c d (c.pwmDutyBase + idx.toNat) ≠ .isr ∧ regAt c d (c.pwmDutyBase + idx.toNat) ≠ .unknown :=
  pwm_plain hp (.inr (.inr ⟨Nat.le_add_right _ _, by have := idx.isLt; omega⟩))

/-- A tuple's duty register is a plain register. -/
theorem tuple_plain {c : Config} (h : c.wellFormed = true) {ch : Channel} (hch : ch ∈ c.chan) :
    regAt c (dutySlot c ch) (dutyCell c ch) ≠ .isr ∧ regAt c (dutySlot c ch) (dutyCell c ch) ≠ .unknown :=
  duty_plain ch.channelIndex (wf_bank h (wf_chan h hch).1).2.2

/-- The four cells of CONFIGUREDEVICE in an input or indicator window. -/
theorem gpio_plain {c : Config} {d i : Nat} (h : c.wellFormed = true) (hp : isPwm c d = false)
    (hi : i = c.gpioTri1Off ∨ i = c.gpioTri2Off ∨ i = c.gpioIerOff ∨ i = c.gpioGierOff) :
    regAt c d i ≠ .isr ∧ regAt c d i ≠ .unknown := by
  have hn := wf_gpio_nodup h
  simp only [List.nodup_cons, List.mem_cons, List.not_mem_nil, or_false, not_or, List.nodup_nil, and_true] at hn
  obtain ⟨n1, n2, n3, n4, n5, n6, -⟩ := hn
  simp only [regAt, hp, Bool.false_eq_true, if_false, gpioRegAt]
  rcases hi with rfl | rfl | rfl | rfl
  · simp [n2, Ne.symm n1.1]
  · simp [n4, Ne.symm n3.1, Ne.symm n1.2.2.1, Ne.symm n2.2.1]
  · simp [Ne.symm n6, Ne.symm n1.2.2.2.2.2, Ne.symm n3.2.2.2, Ne.symm n2.2.2.2.2, Ne.symm n4.2.2]
  · simp [n5, Ne.symm n1.2.2.2.1, Ne.symm n3.2.1, Ne.symm n2.2.2.1, Ne.symm n4.1]

theorem lookup_mem {c : Config} {silk tag : Byte} {ch : Channel} (h : lookup c silk tag = some ch) : ch ∈ c.chan :=
  List.mem_of_find?_eq_some h

end Sys2Proof.Machine
end

