-- ==== Sys2Proof/Laws/Families.lean ====
section
/-! SUPPORT. Each family's plans, and what the run of a plan leaves, said once for all commands of one shape. -/

namespace Sys2Proof.Machine

theorem inWindow_of_not_legal {c : Config} {d i : Nat} (h : ¬ InWindow c d i) : cellLegal c d i = false := by
  rw [← Bool.not_eq_true, cellLegal_iff]
  exact h

theorem finish_devices {p : Plan} (h : p.arms = none) (s : State) : (finish p s).devices = s.devices := by
  simp only [finish, h]
  rfl

/-- A plan's run, up to what its micro-steps do to cells and endpoints. -/
theorem runStart_block (w : CommandWord) (p : Plan) (s : State) :
    let t := runStart (.run p) (accept w s)
    t.cmd = w ∧ t.busy = false ∧ t.k = 0 ∧ t.cp = s.cp + 1 ∧
    t.failAcc = (p.steps.any (·.failedBefore) || p.failedAfter) ∧
    t.result = (match p.ending with
      | .ok => 0
      | .byFailAcc => if p.steps.any (·.failedBefore) || p.failedAfter then 1 else 0) ∧
    (p.arms = none → t.devices = s.devices) ∧
    ((∀ m ∈ p.steps, ∀ d, m.op ≠ .readStatus d) → t.isrLatch = s.isrLatch ∧ t.freeReads = s.freeReads) := by
  intro t
  obtain ⟨b1, -, -, b4, -, b6, b7, b8⟩ := doMicros_block p.steps (accept w s)
  obtain ⟨-, f2, f3, f4, f5, f6, f7, f8⟩ := finish_kept p (doMicros p.steps (accept w s))
  have hfail : (doMicros p.steps (accept w s)).failAcc = p.steps.any (·.failedBefore) := by
    rw [b4]; simp
  refine ⟨f4.trans b1, f5, f6, ?_, ?_, ?_, fun ha => ?_, fun hne => ?_⟩
  · show (finish p _).cp = _
    rw [f7, b6]; rfl
  · show (finish p _).failAcc = _
    rw [f8, hfail]
  · show (finish p _).result = _
    have e := finish_result p (doMicros p.steps (accept w s))
    rw [hfail] at e
    exact e
  · show (finish p _).devices = _
    rw [finish_devices ha, b7]; rfl
  · exact ⟨f2.trans (b8 hne).1, f3.trans (b8 hne).2⟩

theorem runStart_bus (w : CommandWord) (p : Plan) (s : State) (f : MicroOp → BusEvent)
    (h : ∀ m ∈ p.steps, ∀ t, m.op.event t = f m.op) :
    (runStart (.run p) (accept w s)).bus = s.bus ++ p.steps.map fun m => f m.op :=
  (finish_kept p _).1.trans (doMicros_bus f p.steps _ h)

theorem runStart_cell (p : Plan) (s : State) (d i : Nat) :
    (runStart (.run p) s).cell d i = (doMicros p.steps s).cell d i := finish_cell p _ d i

theorem runStart_endpoint (p : Plan) (s : State) (d : Nat) :
    (runStart (.run p) s).endpoint d = (doMicros p.steps s).endpoint d := finish_endpoint p _ d

/-- Acceptance is invisible to the environment. -/
theorem accept_same (w : CommandWord) (s : State) : SameEnv s (accept w s) := ⟨rfl, rfl, rfl, rfl, rfl, rfl, rfl⟩

theorem noteFailure_same (b : Bool) (s : State) : SameEnv s (noteFailure b s) := ⟨rfl, rfl, rfl, rfl, rfl, rfl, rfl⟩

/-- The state before a micro-step's effect, seen by the environment. -/
theorem beforeEffect_same (m : MicroStep) {s t : State} (h : SameEnv s t) : SameEnv (envGap s) (beforeEffect m t) :=
  envGap_same (h.trans (noteFailure_same _ _))

/-! ### The stores of the PWM Controller -/

theorem planStore_legal {c : Config} {d i : Nat} {v : Word} (h : InWindow c d i) :
    planStore c d i v = .run (planOk [.write d i v]) := by
  simp [planStore, cellLegal_iff.2 h]

theorem planStore_illegal {c : Config} {d i : Nat} {v : Word} (h : ¬ InWindow c d i) :
    planStore c d i v = .raise .illegal := by
  simp [planStore, inWindow_of_not_legal h]

/-- A command with one store: what it leaves. -/
theorem store_run (w : CommandWord) (d i : Nat) (v : Word) (s : State) :
    let t := runStart (.run (planOk [.write d i v])) (accept w s)
    Completed w 0 s t ∧ t.bus = s.bus ++ [.write d i v] ∧
    t.cell d i = written (regAt s.cfg d i) ((envGap s).cell d i) v ∧ LatchesKept s t ∧ t.failAcc = false ∧
    Frame (fun d' i' => d' = d ∧ i' = i) NoEndpoint s t := by
  intro t
  obtain ⟨r1, r2, r3, r4, r5, r6, r7, r8⟩ := runStart_block w (planOk [.write d i v]) s
  have h8 := r8 (by simp [planOk])
  refine ⟨⟨r1, r2, r3, r6, r4⟩, ?_, ?_, ⟨h8.1, r7 rfl, h8.2⟩, r5, ?_⟩
  · exact runStart_bus w _ s (fun m => m.event s) (by simp [planOk, MicroOp.event])
  · have hs := beforeEffect_same ⟨false, .write d i v⟩ (accept_same w s)
    show (runStart (.run _) _).cell d i = _
    rw [runStart_cell]
    show (memWrite d i v (beforeEffect ⟨false, .write d i v⟩ (accept w s))).cell d i = _
    rw [memWrite_cell_self, hs.cell, hs.cfg, envGap_cfg]
  · refine (runStart_frame w (planOk [.write d i v]) s).mono ?_ ?_
    · simp [planOk, MicroOp.Touches]
    · simp [planOk, MicroOp.Notifies]

/-! ### Every command -/

/-- Every meaning is the run of its plan. -/
theorem exec_eq (i : Instr) (s : State) : exec i s = runCommand (encode i) (planOf s.cfg i) s := by
  cases i <;> rfl

theorem raise_completed (w : CommandWord) (c : ResultCode) (s : State) :
    Completed w c.bits s (runStart (.raise c) (accept w s)) := ⟨rfl, rfl, rfl, rfl, rfl⟩

/-- A command that raises touches nothing. -/
theorem raise_frame (P : Nat → Nat → Prop) (N : Nat → Prop) (w : CommandWord) (c : ResultCode) (s : State) :
    let t := runStart (.raise c) (accept w s)
    Frame P N s t ∧ LatchesKept s t ∧ t.failAcc = false ∧ t.bus = s.bus :=
  ⟨(accept_frame _ _ w s).trans (complete_frame _ _ c _), ⟨rfl, rfl, rfl⟩, rfl, rfl⟩

theorem planOk_completed (w : CommandWord) (ops : List MicroOp) (s : State) :
    Completed w 0 s (runStart (.run (planOk ops)) (accept w s)) := by
  obtain ⟨r1, r2, r3, r4, -, r6, -, -⟩ := runStart_block w (planOk ops) s
  exact ⟨r1, r2, r3, r6, r4⟩

/-! ### The sub-calls of SETPALETTE -/

/-- FAILACC at the end of a sequence of sub-calls: one of them failed. -/
theorem subCallPlan_failed (b : Bool) (l : List (Option MicroOp)) :
    ((subCallPlan b l).steps.any (·.failedBefore) || (subCallPlan b l).failedAfter) = (b || l.any (·.isNone)) := by
  induction l generalizing b with
  | nil => simp [subCallPlan]
  | cons o l ih =>
    cases o
    · simp [subCallPlan, ih]
    · have := ih false
      simp only [Bool.false_or] at this
      simp only [subCallPlan, List.any_cons, Option.isNone_some, Bool.false_or]
      rw [Bool.or_assoc, this]

theorem subCallPlan_end (b : Bool) (l : List (Option MicroOp)) :
    (subCallPlan b l).ending = .byFailAcc ∧ (subCallPlan b l).arms = none := by
  induction l generalizing b with
  | nil => exact ⟨rfl, rfl⟩
  | cons o l ih => cases o <;> simp [subCallPlan, ih]

/-- The writes are those of the sub-calls that found a tuple, in order. -/
theorem subCallPlan_ops (b : Bool) (l : List (Option MicroOp)) :
    (subCallPlan b l).steps.map (·.op) = l.filterMap id := by
  induction l generalizing b with
  | nil => rfl
  | cons o l ih => cases o <;> simp [subCallPlan, ih]

/-! ### What a sequence of micro-steps leaves in a plain register -/

/-- The word a plain register holds after micro-steps that store constants: the last one stored to it, or what it held. -/
def lastStored (d i : Nat) : List MicroStep → Word → Word
  | [], v => v
  | ⟨_, .write d' i' v'⟩ :: ms, v => lastStored d i ms (if d = d' ∧ i = i' then v' else v)
  | ⟨_, .readStatus _⟩ :: ms, v => lastStored d i ms v
  | ⟨_, .writeLatch _⟩ :: ms, v => lastStored d i ms v
  | ⟨_, .notify _⟩ :: ms, v => lastStored d i ms v
  | ⟨_, .delay _⟩ :: ms, v => lastStored d i ms v

/-- One micro-step on a register that is neither an interrupt-status register nor unknown. -/
theorem doMicro_cell_plain (m : MicroStep) (s : State) {d i : Nat} (h1 : regAt s.cfg d i ≠ .isr)
    (h2 : regAt s.cfg d i ≠ .unknown) (hm : ∀ d', m.op ≠ .writeLatch d') :
    (doMicro m s).cell d i = lastStored d i [m] (s.cell d i) := by
  obtain ⟨b, op⟩ := m
  have hf := doMicro_frame ⟨b, op⟩ s
  cases op with
  | write d' i' v =>
    by_cases h : d = d' ∧ i = i'
    · obtain ⟨rfl, rfl⟩ := h
      have he : lastStored d i [⟨b, .write d i v⟩] (s.cell d i) = v := by simp [lastStored]
      rw [he, doMicro_cell]
      show (memWrite d i v _).cell d i = v
      rw [memWrite_cell_self, beforeEffect_cfg, written_plain h1 h2]
    · simp only [lastStored, h, if_false]
      exact hf.cells d i h h1
  | writeLatch d' => exact absurd rfl (hm d')
  | readStatus d' => exact hf.cells d i id h1
  | notify d' => exact hf.cells d i id h1
  | delay T => exact hf.cells d i id h1

theorem lastStored_cons (d i : Nat) (m : MicroStep) (ms : List MicroStep) (v : Word) :
    lastStored d i (m :: ms) v = lastStored d i ms (lastStored d i [m] v) := by
  obtain ⟨b, op⟩ := m
  cases op <;> rfl

theorem lastStored_append (d i : Nat) (ms ns : List MicroStep) (v : Word) :
    lastStored d i (ms ++ ns) v = lastStored d i ns (lastStored d i ms v) := by
  induction ms generalizing v with
  | nil => rfl
  | cons m ms ih => rw [List.cons_append, lastStored_cons, ih, ← lastStored_cons]

theorem doMicros_cell_plain (ms : List MicroStep) (s : State) {d i : Nat} (h1 : regAt s.cfg d i ≠ .isr)
    (h2 : regAt s.cfg d i ≠ .unknown) (hm : ∀ m ∈ ms, ∀ d', m.op ≠ .writeLatch d') :
    (doMicros ms s).cell d i = lastStored d i ms (s.cell d i) := by
  induction ms generalizing s with
  | nil => rfl
  | cons m ms ih =>
    have hc : (doMicro m s).cfg = s.cfg := (doMicro_frame m s).cfg
    show (doMicros ms (doMicro m s)).cell d i = _
    rw [ih (doMicro m s) (hc ▸ h1) (hc ▸ h2) fun m' hm' => hm m' (List.mem_cons_of_mem _ hm'),
      doMicro_cell_plain m s h1 h2 (hm m List.mem_cons_self), ← lastStored_cons]

/-- No store to the register: it holds what it held. -/
theorem lastStored_untouched {d i : Nat} {ms : List MicroStep} (h : ∀ m ∈ ms, ∀ v, m.op ≠ .write d i v) (v : Word) :
    lastStored d i ms v = v := by
  induction ms generalizing v with
  | nil => rfl
  | cons m ms ih =>
    rw [lastStored_cons, ih fun m' hm' => h m' (List.mem_cons_of_mem _ hm')]
    obtain ⟨b, op⟩ := m
    cases op with
    | write d' i' v' =>
      have : ¬ (d = d' ∧ i = i') := by
        rintro ⟨rfl, rfl⟩
        exact h _ List.mem_cons_self v' rfl
      simp [lastStored, this]
    | _ => rfl

/-- Every store to the register stores `v`, and it held `v`, or something was stored. -/
theorem lastStored_const {d i : Nat} {v : Word} {ms : List MicroStep}
    (h : ∀ m ∈ ms, ∀ v', m.op = .write d i v' → v' = v) (u : Word) (hu : u = v ∨ ∃ m ∈ ms, m.op = .write d i v) :
    lastStored d i ms u = v := by
  induction ms generalizing u with
  | nil => simpa [lastStored] using hu
  | cons m ms ih =>
    rw [lastStored_cons]
    apply ih fun m' hm' => h m' (List.mem_cons_of_mem _ hm')
    obtain ⟨b, op⟩ := m
    cases op with
    | write d' i' v' =>
      by_cases hd : d = d' ∧ i = i'
      · obtain ⟨rfl, rfl⟩ := hd
        left
        simp [lastStored, h _ List.mem_cons_self v' rfl]
      · simp only [lastStored, hd, if_false]
        refine hu.imp id ?_
        rintro ⟨m, hm, he⟩
        rcases List.mem_cons.1 hm with rfl | hm
        · simp only [MicroOp.write.injEq] at he
          exact absurd ⟨he.1.symm, he.2.1.symm⟩ hd
        · exact ⟨m, hm, he⟩
    | _ =>
      refine hu.imp id ?_
      rintro ⟨m, hm, he⟩
      rcases List.mem_cons.1 hm with rfl | hm
      · simp at he
      · exact ⟨m, hm, he⟩

/-! ### The micro-steps of a REACKNOWLEDGE and an ACKNOTIFICATION -/

/-- A delay or a status read leaves what the environment sees as its gap left it. -/
theorem doMicro_same (m : MicroStep) {u s : State} (h : SameEnv u s)
    (hm : (∃ T, m.op = .delay T) ∨ ∃ d, m.op = .readStatus d) : SameEnv (envGap u) (doMicro m s) := by
  have h1 := beforeEffect_same m h
  rw [doMicro_eq]
  generalize beforeEffect m s = x at h1 ⊢
  refine h1.trans ?_
  rcases hm with ⟨T, hT⟩ | ⟨d, hd⟩
  · rw [hT]
    exact ⟨rfl, rfl, rfl, rfl, rfl, rfl, rfl⟩
  · obtain ⟨n, hn⟩ := afterRead_eq x d x.cfg.gpioIsrOff
    rw [hd]
    constructor <;> simp only [microEffect, hn] <;> rfl

/-- The status read (R176): what is latched is what the register held after the gap before it. -/
theorem doMicro_readStatus (b : Bool) (d : Nat) (s : State) :
    (doMicro ⟨b, .readStatus d⟩ s).isrLatch = readValue (beforeEffect ⟨b, .readStatus d⟩ s) d s.cfg.gpioIsrOff ∧
    (doMicro ⟨b, .readStatus d⟩ s).freeReads =
      (afterRead (beforeEffect ⟨b, .readStatus d⟩ s) d s.cfg.gpioIsrOff).freeReads := by
  have hc := beforeEffect_cfg ⟨b, .readStatus d⟩ s
  rw [doMicro_eq]
  generalize beforeEffect ⟨b, .readStatus d⟩ s = x at hc ⊢
  rw [← hc]
  exact ⟨rfl, rfl⟩

/-- The write-back (R176): the latch is written to the status register; nothing else changes but the record and K. -/
theorem doMicro_writeLatch (b : Bool) (d : Nat) (s : State) :
    (doMicro ⟨b, .writeLatch d⟩ s).cells =
      (memWrite d s.cfg.gpioIsrOff s.isrLatch (beforeEffect ⟨b, .writeLatch d⟩ s)).cells ∧
    (doMicro ⟨b, .writeLatch d⟩ s).gaps = (beforeEffect ⟨b, .writeLatch d⟩ s).gaps ∧
    (doMicro ⟨b, .writeLatch d⟩ s).endpoints = (beforeEffect ⟨b, .writeLatch d⟩ s).endpoints := by
  have hc := beforeEffect_cfg ⟨b, .writeLatch d⟩ s
  have hl : (beforeEffect ⟨b, .writeLatch d⟩ s).isrLatch = s.isrLatch := by simp [beforeEffect]
  rw [doMicro_eq]
  generalize beforeEffect ⟨b, .writeLatch d⟩ s = x at hc hl ⊢
  rw [← hc, ← hl]
  obtain ⟨m, hm⟩ := memWrite_eq d x.cfg.gpioIsrOff x.isrLatch x
  simp [microEffect, hm]

/-- The 4-byte write to an endpoint (R181, R214): it unmasks the line; cells and script are as the gap left them. -/
theorem doMicro_notify (b : Bool) (d : Nat) (s : State) :
    (doMicro ⟨b, .notify d⟩ s).endpoints = Store.set natLt d
      { (beforeEffect ⟨b, .notify d⟩ s).endpoint d with masked := false } (beforeEffect ⟨b, .notify d⟩ s).endpoints ∧
    (doMicro ⟨b, .notify d⟩ s).cells = (beforeEffect ⟨b, .notify d⟩ s).cells ∧
    (doMicro ⟨b, .notify d⟩ s).gaps = (beforeEffect ⟨b, .notify d⟩ s).gaps := by
  rw [doMicro_eq]
  generalize beforeEffect ⟨b, .notify d⟩ s = x
  exact ⟨rfl, rfl, rfl⟩

/-- A delay leaves cells, endpoints and script as its gap left them. -/
theorem doMicro_delay (b : Bool) (T : DelayName) (s : State) :
    (doMicro ⟨b, .delay T⟩ s).endpoints = (envGap s).endpoints ∧ (doMicro ⟨b, .delay T⟩ s).cells = (envGap s).cells ∧
    (doMicro ⟨b, .delay T⟩ s).gaps = (envGap s).gaps := by
  have h := doMicro_same ⟨b, .delay T⟩ (.refl s) (.inl ⟨T, rfl⟩)
  exact ⟨h.endpoints, h.cells, h.gaps⟩

end Sys2Proof.Machine
end

