-- ==== Sys2Proof/Laws/Micro.lean ====
section
/-! SUPPORT. A plan run one micro-step at a time (R25, R26). -/

namespace Sys2Proof.Machine

theorem microSteps_succ (n : Nat) (s : State) : microSteps (n + 1) s = microStep (microSteps n s) := by
  induction n generalizing s with
  | zero => rfl
  | succ n ih => exact ih (microStep s)

/-- Before the last micro-step: the first `n` of the plan have been performed. -/
theorem microSteps_lt {s : State} {p : Plan} (hp : startOfWord s.cfg s.cmd = .run p) (hk : s.k = 0)
    (hL : p.steps.length ≤ 255) {n : Nat} (hn : n < p.steps.length) :
    microSteps n s = doMicros (p.steps.take n) s := by
  induction n with
  | zero => rfl
  | succ n ih =>
    have hn' : n < p.steps.length := Nat.lt_of_succ_lt hn
    rw [microSteps_succ, ih hn']
    obtain ⟨b1, -, b3, -⟩ := doMicros_block (p.steps.take n) s
    have hcfg : (doMicros (p.steps.take n) s).cfg = s.cfg := (doMicros_frame _ s).cfg
    have hk' : (doMicros (p.steps.take n) s).k.toNat = n := by
      rw [b3, hk, List.length_take, Nat.min_eq_left (Nat.le_of_lt hn')]
      rw [BitVec.toNat_add, BitVec.toNat_ofNat]
      show (0 + n % 256) % 256 = n
      omega
    unfold microStep
    rw [hcfg, b1, hp, hk']
    simp only [List.getElem?_eq_getElem hn']
    rw [if_neg (Nat.ne_of_lt hn), List.take_add_one, List.getElem?_eq_getElem hn', doMicros_append]
    rfl

/-- The last micro-step completes the command. -/
theorem microSteps_length {s : State} {p : Plan} (hp : startOfWord s.cfg s.cmd = .run p) (hk : s.k = 0)
    (hL : p.steps.length ≤ 255) (hpos : 0 < p.steps.length) :
    microSteps p.steps.length s = finish p (doMicros p.steps s) := by
  obtain ⟨n, hn⟩ : ∃ n, p.steps.length = n + 1 := ⟨p.steps.length - 1, by omega⟩
  have hn' : n < p.steps.length := by omega
  rw [hn, microSteps_succ, microSteps_lt hp hk hL hn']
  obtain ⟨b1, -, b3, -⟩ := doMicros_block (p.steps.take n) s
  have hcfg : (doMicros (p.steps.take n) s).cfg = s.cfg := (doMicros_frame _ s).cfg
  have hk' : (doMicros (p.steps.take n) s).k.toNat = n := by
    rw [b3, hk, List.length_take, Nat.min_eq_left (Nat.le_of_lt hn')]
    rw [BitVec.toNat_add, BitVec.toNat_ofNat]
    show (0 + n % 256) % 256 = n
    omega
  unfold microStep
  rw [hcfg, b1, hp, hk']
  simp only [List.getElem?_eq_getElem hn']
  rw [if_pos hn.symm]
  have : p.steps = p.steps.take n ++ [p.steps[n]] := by
    conv_lhs => rw [← List.take_length (l := p.steps), hn, List.take_add_one, List.getElem?_eq_getElem hn']
    rfl
  conv_rhs => rw [this, doMicros_append]
  rfl

end Sys2Proof.Machine
end

