-- ==== Sys2Proof/Laws/PerInstr.lean ====
section
/-! SUPPORT. The families of LAWS.json, one lemma per constructor. -/

namespace Sys2Proof.Laws.SelectsItsRow

/-- The mask of a command's row (R95). -/
def mask : Instr → CommandWord
  | .setPeriod _ _ => 0xFF00FFFF00000000#64
  | .setDuty _ _ _ => 0xFF0000FF00000000#64
  | .enable _ => 0xFF00FFFFFFFFFFFF#64
  | .disable _ => 0xFF00FFFFFFFFFFFF#64
  | .setLedPercent _ _ _ => 0xFF0000FFFFFF0000#64
  | .setPalette _ _ _ _ => 0xFF00FFFFFF000000#64
  | .allLedsOff => 0xFFFFFFFFFFFFFFFF#64
  | .configureDevice _ => 0xFF00FFFFFFFFFFFF#64
  | .reacknowledge _ => 0xFF00FFFFFFFFFFFF#64
  | .ackNotification _ => 0xFF00FFFFFFFFFFFF#64

/-- The match of a command's row (R95). -/
def rowMatch : Instr → CommandWord
  | .setPeriod _ _ => 0x0100000000000000#64
  | .setDuty _ _ _ => 0x0200000000000000#64
  | .enable _ => 0x0300000000000000#64
  | .disable _ => 0x0400000000000000#64
  | .setLedPercent _ _ _ => 0x1000000000000000#64
  | .setPalette _ _ _ _ => 0x1100000000000000#64
  | .allLedsOff => 0x1200000000000000#64
  | .configureDevice _ => 0x2000000000000000#64
  | .reacknowledge _ => 0x2100000000000000#64
  | .ackNotification _ => 0x2200000000000000#64

/-- The command's word agrees with the row's match under the row's mask (R95). -/
def Statement (i : Instr) : Prop := encode i &&& mask i = rowMatch i

/-- A packed word under a packed mask, field by field. -/
theorem masked {opc a b a' b' m2 m3 : Byte} {d d' m5 : Word} {m n : CommandWord}
    (ha : a &&& m2 = a') (hb : b &&& m3 = b') (hd : d &&& m5 = d')
    (hm : pack 0xFF m2 m3 0xFF m5 = m) (hn : pack (opc &&& 0xFF) a' b' (0 &&& 0xFF) d' = n) :
    pack opc a b 0 d &&& m = n := by
  rw [← hm, pack_and, ha, hb, hd, hn]

/-- A command of format D (R92). -/
theorem maskedD (opc dev : Byte) {n : CommandWord} (hn : pack (opc &&& 0xFF) 0 0 0 0 = n) :
    pack opc dev 0 0 0 &&& 0xFF00FFFFFFFFFFFF#64 = n :=
  masked (m2 := 0) (m3 := 0xFF) (m5 := 0xFFFFFFFF) BitVec.and_zero (by decide) (by decide) (by decide) hn

theorem percent_masked (percent : Percent) : ((0 : BitVec 16) ++ percent : Word) &&& 0xFFFF0000 = 0 := by
  show ((0 : BitVec 16) ++ percent : BitVec (16 + 16)) &&& ((0xFFFF : BitVec 16) ++ (0 : BitVec 16)) = 0
  rw [BitVec.and_append]
  simp

theorem palette_masked (r g b : Byte) : ((0 : Byte) ++ r ++ g ++ b : Word) &&& 0xFF000000 = 0 := by
  show ((0 : Byte) ++ r ++ g ++ b : BitVec (8 + 8 + 8 + 8)) &&&
    ((0xFF : Byte) ++ (0 : Byte) ++ (0 : Byte) ++ (0 : Byte)) = 0
  rw [BitVec.and_append, BitVec.and_append, BitVec.and_append]
  simp

theorem setPeriod (dev : Byte) (count : Word) : Statement (.setPeriod dev count) :=
  masked (m := 0xFF00FFFF00000000#64) (n := 0x0100000000000000#64) (m2 := 0) (m3 := 0xFF) (m5 := 0)
    BitVec.and_zero (b' := 0) (by decide) BitVec.and_zero (by decide) (by decide)

theorem setDuty (dev : Byte) (count : Word) (idx : Byte) : Statement (.setDuty dev count idx) :=
  masked (m := 0xFF0000FF00000000#64) (n := 0x0200000000000000#64) (m2 := 0) (m3 := 0) (m5 := 0)
    BitVec.and_zero BitVec.and_zero BitVec.and_zero (by decide) (by decide)

theorem enable (dev : Byte) : Statement (.enable dev) :=
  maskedD 0x03 dev (n := 0x0300000000000000#64) (by decide)

theorem disable (dev : Byte) : Statement (.disable dev) :=
  maskedD 0x04 dev (n := 0x0400000000000000#64) (by decide)

theorem setLedPercent (silk tag : Byte) (percent : Percent) : Statement (.setLedPercent silk tag percent) :=
  masked (m := 0xFF0000FFFFFF0000#64) (n := 0x1000000000000000#64) (m2 := 0) (m3 := 0) (m5 := 0xFFFF0000)
    BitVec.and_zero BitVec.and_zero (percent_masked percent) (by decide) (by decide)

theorem setPalette (silk r g b : Byte) : Statement (.setPalette silk r g b) :=
  masked (m := 0xFF00FFFFFF000000#64) (n := 0x1100000000000000#64) (m2 := 0) (m3 := 0xFF) (m5 := 0xFF000000)
    BitVec.and_zero (b' := 0) (by decide) (palette_masked r g b) (by decide) (by decide)

theorem allLedsOff : Statement .allLedsOff := by
  unfold Statement
  decide

theorem configureDevice (dev : Byte) : Statement (.configureDevice dev) :=
  maskedD 0x20 dev (n := 0x2000000000000000#64) (by decide)

theorem reacknowledge (dev : Byte) : Statement (.reacknowledge dev) :=
  maskedD 0x21 dev (n := 0x2100000000000000#64) (by decide)

theorem ackNotification (dev : Byte) : Statement (.ackNotification dev) :=
  maskedD 0x22 dev (n := 0x2200000000000000#64) (by decide)

end Sys2Proof.Laws.SelectsItsRow
end

