-- ==== Sys2Proof/Laws/Step.lean ====
section
/-! SUPPORT. What one step of the machine can do, said once: a micro-step, a whole command, or a move of the host. -/

namespace Sys2Proof.Machine

/-- A micro-step of the command in flight: a `raise`, the completion of an empty plan, or one micro-step of the plan, which
completes the command if it is the last. -/
theorem microStep_cases (s : State) :
    (∃ c, microStep s = complete c s) ∨ (∃ p, startOfWord s.cfg s.cmd = .run p ∧ microStep s = finish p s) ∨
    (∃ p m, startOfWord s.cfg s.cmd = .run p ∧ m ∈ p.steps ∧
      (microStep s = finish p (doMicro m s) ∨ microStep s = doMicro m s)) := by
  unfold microStep
  split
  · exact .inl ⟨_, rfl⟩
  · rename_i p hp
    split
    · exact .inr (.inl ⟨p, hp, rfl⟩)
    · rename_i m hm
      refine .inr (.inr ⟨p, m, hp, List.mem_of_getElem? hm, ?_⟩)
      split
      · exact .inl rfl
      · exact .inr rfl

/-- The four kinds of step. -/
theorem step_cases {s t : State} (h : step s = .next t) : s.cfg.wellFormed = true ∧
    ((s.busy = true ∧ s.port = none ∧ t = microStep s) ∨
     (s.busy = false ∧ ∃ w i, s.port = some w ∧ decode w = .ok i ∧
       t = runStart (planOf s.cfg i) (accept (encode i) { s with port := none })) ∨
     (s.busy = false ∧ ∃ w, s.port = some w ∧ t = runStart (.raise .illegal) (accept w { s with port := none })) ∨
     (s.busy = false ∧ s.port = none ∧ hostStep (envGap s) = .next t)) := by
  unfold step at h
  split at h
  · cases h
  · rename_i hw
    refine ⟨by simpa using hw, ?_⟩
    split at h
    · cases h
    · cases h
      exact .inl ⟨‹_›, ‹_›, rfl⟩
    · rename_i w hb hp
      unfold runPortWord at h
      split at h
      · rename_i i hd
        rw [exec_eq] at h
        obtain ⟨-, rfl⟩ := runCommand_next h
        exact .inr (.inl ⟨hb, w, i, hp, hd, rfl⟩)
      · obtain ⟨-, rfl⟩ := runCommand_next h
        exact .inr (.inr (.inl ⟨hb, w, hp, rfl⟩))
    · exact .inr (.inr (.inr ⟨‹_›, ‹_›, h⟩))

/-! ### The host software -/

/-- What a move of the host software can do to the rest of the machine: at most one store into an existing cell, one
payload read, one command presented. -/
structure HostMove (s t : State) : Prop where
  cfg       : t.cfg = s.cfg
  block     : BlockKept s t
  gaps      : t.gaps = s.gaps
  pins      : t.pins = s.pins
  cells     : t.cells = s.cells ∨ ∃ d i v, cellLegal s.cfg d i = true ∧ t.cells = (memWrite d i v s).cells
  endpoints : t.endpoints = s.endpoints ∨
    ∃ d, t.endpoints = Store.set natLt d { s.endpoint d with readable := false } s.endpoints
  cntMotion : t.host.cntMotion = s.host.cntMotion ∨
    ∃ d n, t.host.cntMotion = Store.set natLt d n s.host.cntMotion
  payload   : t.host.payload = s.host.payload ∨ ∃ d n, t.host.payload = some (payloadOf s.cfg d n)

theorem payloadOf_length (c : Config) (d n : Nat) : (payloadOf c d n).bytes.length = c.notifyPayloadBytes := by
  simp [payloadOf]

@[simp] theorem takePayload_endpoint_self (d : Nat) (s : State) :
    (takePayload d s).endpoint d = { s.endpoint d with readable := false } := setEndpoint_endpoint_self s d _

theorem takePayload_endpoint_ne {d d' : Nat} (s : State) (h : d' ≠ d) :
    (takePayload d s).endpoint d' = s.endpoint d' := setEndpoint_endpoint_ne s _ h

@[simp] theorem takePayload_host (d : Nat) (s : State) :
    (takePayload d s).host = { s.host with payload := some (payloadOf s.cfg d (s.endpoint d).count) } := rfl

@[simp] theorem takePayload_cells (d : Nat) (s : State) : (takePayload d s).cells = s.cells := rfl

theorem HostMove.of_host {s t : State} (h : t = s.withHost t.host)
    (hc : t.host.cntMotion = s.host.cntMotion ∨ ∃ d n, t.host.cntMotion = Store.set natLt d n s.host.cntMotion)
    (hp : t.host.payload = s.host.payload := by rfl) : HostMove s t := by
  rw [h]
  exact ⟨rfl, ⟨rfl, rfl, rfl, rfl, rfl, rfl, rfl, rfl, rfl⟩, rfl, rfl, .inl rfl, .inl rfl, hc, .inl hp⟩

theorem hostRead_legal {d i : Nat} {k : Word → State → State} {s : State} (h : cellLegal s.cfg d i = true) :
    hostRead d i k s = .next (k (readValue s d i) (afterRead s d i)) := if_pos h

theorem hostRead_illegal {d i : Nat} {k : Word → State → State} {s : State} (h : ¬ cellLegal s.cfg d i = true) :
    hostRead d i k s = .fault (.hostAccessOutsideWindow d i) := if_neg h

theorem hostWrite_legal {d i : Nat} {v : Word} {s : State} (h : cellLegal s.cfg d i = true) :
    hostWrite d i v s = .next (memWrite d i v s) := if_pos h

theorem hostWrite_illegal {d i : Nat} {v : Word} {s : State} (h : ¬ cellLegal s.cfg d i = true) :
    hostWrite d i v s = .fault (.hostAccessOutsideWindow d i) := if_neg h

/-- What the environment leaves of the host's state: all but the quit flag. -/
theorem envGap_host (s : State) : (envGap s).host = { s.host with quit := (envGap s).host.quit } :=
  (envGap_frame s).host.1

/-- A step of an idle machine is a move of the host. -/
theorem step_hostStep {s : State} (hr : Ready s) (hp : s.port = none) : step s = hostStep (envGap s) := by
  simp [step, hr.1, hr.2, hp]

/-- A step of an idle machine with work to do takes the first action off the list. -/
theorem step_hostOp {s : State} {op : HostOp} {rest : List HostOp} (hr : Ready s) (hp : s.port = none)
    (ht : s.host.todo = op :: rest) :
    step s = hostOp op ((envGap s).withHost { (envGap s).host with todo := rest }) := by
  rw [step_hostStep hr hp, hostStep, envGap_host, ht]

/-- A window read of the host, whatever it keeps of the value in its own state. -/
theorem hostRead_move {d i : Nat} {f : Word → HostSoftware → HostSoftware} {s t : State}
    (hf : ∀ v h, (f v h).cntMotion = h.cntMotion ∧ (f v h).payload = h.payload)
    (h : hostRead d i (fun v t => t.withHost (f v t.host)) s = .next t) :
    HostMove s t ∧ t.host = f (readValue s d i) s.host := by
  unfold hostRead at h
  split at h
  · cases h
    obtain ⟨n, hn⟩ := afterRead_eq s d i
    rw [hn]
    exact ⟨⟨rfl, ⟨rfl, rfl, rfl, rfl, rfl, rfl, rfl, rfl, rfl⟩, rfl, rfl, .inl rfl, .inl rfl, .inl (hf _ _).1,
      .inl (hf _ _).2⟩, rfl⟩
  · cases h

theorem hostWrite_move {d i : Nat} {v : Word} {s t : State} (h : hostWrite d i v s = .next t) :
    HostMove s t ∧ t.host = s.host := by
  unfold hostWrite at h
  split at h
  · rename_i hl
    cases h
    have hc : (memWrite d i v s).cells = (memWrite d i v s).cells := rfl
    obtain ⟨m, hm⟩ := memWrite_eq d i v s
    refine ⟨⟨?_, ?_, ?_, ?_, .inr ⟨d, i, v, hl, hc⟩, .inl ?_, .inl ?_, .inl ?_⟩, ?_⟩ <;> rw [hm]
    constructor <;> rfl
  · cases h

/-- The slots the host is about to add to its wait set. -/
def pendingSources (ops : List HostOp) : List Nat :=
  ops.filterMap fun op => match op with
    | .addToWaitSet d => some d
    | _ => none

theorem pendingSources_append (a b : List HostOp) : pendingSources (a ++ b) = pendingSources a ++ pendingSources b :=
  List.filterMap_append

/-- One host action: a `HostMove`; it adds to the wait set only the slot it names, and plans no further additions. -/
theorem hostOp_move {op : HostOp} {s t : State} (h : hostOp op s = .next t) :
    HostMove s t ∧ pendingSources t.host.todo = pendingSources s.host.todo ∧
    (t.host.waitSet = s.host.waitSet ∨
      ∃ d, op = .addToWaitSet d ∧ t.host.waitSet = Store.set natLt d () s.host.waitSet) := by
  cases op <;> simp only [hostOp] at h
  case addToWaitSet d => cases h; exact ⟨.of_host rfl (.inl rfl), rfl, .inr ⟨d, rfl, rfl⟩⟩
  case command i =>
    cases h
    exact ⟨⟨rfl, ⟨rfl, rfl, rfl, rfl, rfl, rfl, rfl, rfl, rfl⟩, rfl, rfl, .inl rfl, .inl rfl, .inl rfl, .inl rfl⟩,
      rfl, .inl rfl⟩
  case readPayload d =>
    cases h
    exact ⟨⟨rfl, ⟨rfl, rfl, rfl, rfl, rfl, rfl, rfl, rfl, rfl⟩, rfl, rfl, .inl rfl, .inr ⟨d, rfl⟩, .inl rfl,
      .inr ⟨_, _, rfl⟩⟩, rfl, .inl rfl⟩
  case dispatch d =>
    cases h
    refine ⟨.of_host rfl (.inl rfl), ?_, .inl rfl⟩
    show pendingSources (handlerOps s.cfg d ++ s.host.todo) = _
    rw [pendingSources_append]
    have : pendingSources (handlerOps s.cfg d) = [] := by
      unfold handlerOps
      split <;> rfl
    rw [this]
    rfl
  case readData1 d =>
    obtain ⟨hm, hh⟩ := hostRead_move (f := fun v h => { h with tmpA := v }) (fun _ _ => ⟨rfl, rfl⟩) h
    exact ⟨hm, by rw [hh], .inl (by rw [hh])⟩
  case readData2 d =>
    obtain ⟨hm, hh⟩ := hostRead_move (f := fun v h => { h with tmpB := v }) (fun _ _ => ⟨rfl, rfl⟩) h
    exact ⟨hm, by rw [hh], .inl (by rw [hh])⟩
  case readIndicator =>
    obtain ⟨hm, hh⟩ := hostRead_move (f := fun v h => { h with tmpT := v }) (fun _ _ => ⟨rfl, rfl⟩) h
    exact ⟨hm, by rw [hh], .inl (by rw [hh])⟩
  case writeIndicator mask =>
    obtain ⟨hm, hh⟩ := hostWrite_move h
    exact ⟨hm, by rw [hh], .inl (by rw [hh])⟩
  case countMotion d => cases h; exact ⟨.of_host rfl (.inr ⟨d, _, rfl⟩), rfl, .inl rfl⟩
  case neutralIfButton => split at h <;> cases h <;> exact ⟨.of_host rfl (.inl rfl), rfl, .inl rfl⟩
  case applyPaletteRule => cases h; exact ⟨.of_host rfl (.inl rfl), rfl, .inl rfl⟩
  case pushPalette0 =>
    cases h
    exact ⟨⟨rfl, ⟨rfl, rfl, rfl, rfl, rfl, rfl, rfl, rfl, rfl⟩, rfl, rfl, .inl rfl, .inl rfl, .inl rfl, .inl rfl⟩,
      rfl, .inl rfl⟩
  case pushPalette1 =>
    cases h
    exact ⟨⟨rfl, ⟨rfl, rfl, rfl, rfl, rfl, rfl, rfl, rfl, rfl⟩, rfl, rfl, .inl rfl, .inl rfl, .inl rfl, .inl rfl⟩,
      rfl, .inl rfl⟩
  case compareSwitches => split at h <;> cases h <;> exact ⟨.of_host rfl (.inl rfl), rfl, .inl rfl⟩
  case compareButtons => split at h <;> cases h <;> exact ⟨.of_host rfl (.inl rfl), rfl, .inl rfl⟩

/-- The slots of the boot list are those of R31. -/
theorem pendingSources_bootOps {c : Config} {d : Nat} (h : d ∈ pendingSources (bootOps c)) : c.inWaitSet d = true := by
  simp only [pendingSources, bootOps, rearmOps, rearm, slotsWith, List.mem_filterMap, List.mem_append, List.mem_map,
    List.mem_flatMap, List.mem_filter, List.mem_cons, List.not_mem_nil, or_false] at h
  obtain ⟨op, hop, hd⟩ := h
  rcases hop with (⟨e, -, rfl⟩ | rfl) | ⟨e, he, rfl | ⟨i, -, rfl⟩⟩
  · cases hd
  · cases hd
  · cases hd
    exact he.2
  · cases hd

/-- The multiplexer's own moves. -/
theorem muxStep_move (s : State) : HostMove s (muxStep s) ∧
    ((muxStep s).host.waitSet = s.host.waitSet ∨ (muxStep s).host.waitSet = []) ∧
    (∀ d ∈ pendingSources (muxStep s).host.todo, d ∈ pendingSources s.host.todo ∨ s.cfg.inWaitSet d = true) := by
  have keep (t : State) (h : HostMove s t) (hw : t.host.waitSet = s.host.waitSet ∨ t.host.waitSet = [])
      (ht : t.host.todo = s.host.todo ∨ pendingSources t.host.todo = []) : HostMove s t ∧
      (t.host.waitSet = s.host.waitSet ∨ t.host.waitSet = []) ∧
      (∀ d ∈ pendingSources t.host.todo, d ∈ pendingSources s.host.todo ∨ s.cfg.inWaitSet d = true) := by
    refine ⟨h, hw, fun d hd => ?_⟩
    rcases ht with ht | ht
    · exact .inl (ht ▸ hd)
    · rw [ht] at hd
      cases hd
  unfold muxStep
  split
  · exact ⟨.of_host rfl (.inl rfl), .inl rfl, fun d hd => .inr (pendingSources_bootOps hd)⟩
  · exact keep _ (.of_host rfl (.inl rfl)) (.inl rfl) (.inl rfl)
  · split
    · exact keep _ (.of_host rfl (.inl rfl)) (.inr rfl) (.inr rfl)
    · exact keep _ (.of_host rfl (.inl rfl)) (.inl rfl) (.inl rfl)
  · unfold waitStep
    split
    · exact keep _ (.of_host rfl (.inl rfl)) (.inr rfl) (.inr rfl)
    · split
      · exact keep _ ⟨rfl, ⟨rfl, rfl, rfl, rfl, rfl, rfl, rfl, rfl, rfl⟩, rfl, rfl, .inl rfl, .inl rfl, .inl rfl,
        .inl rfl⟩ (.inl rfl) (.inl rfl)
      · split
        · exact keep _ (.of_host rfl (.inl rfl)) (.inl rfl) (.inl rfl)
        · refine keep _ (.of_host rfl (.inl rfl)) (.inl rfl) (.inr ?_)
          show pendingSources ((readySlots s).flatMap _) = []
          induction readySlots s with
          | nil => rfl
          | cons d ds ih =>
            rw [List.flatMap_cons, pendingSources_append, ih]
            rfl
  · exact keep _ (.of_host rfl (.inl rfl)) (.inl rfl) (.inl rfl)
  · exact keep _ (.of_host rfl (.inl rfl)) (.inl rfl) (.inl rfl)

theorem memWrite_cells_withHost (d i : Nat) (v : Word) (s : State) (h : HostSoftware) :
    (memWrite d i v (s.withHost h)).cells = (memWrite d i v s).cells := by
  unfold memWrite
  show (if regAt s.cfg d i = .unknown then s.withHost h else _).cells = _
  split <;> rfl

/-- One move of the host software. -/
theorem hostStep_move {s t : State} (h : hostStep s = .next t) : HostMove s t := by
  unfold hostStep at h
  split at h
  · rename_i op rest _
    obtain ⟨h1, -, -⟩ := hostOp_move h
    have b := h1.block
    refine ⟨h1.cfg, ⟨b.cmd, b.busy, b.k, b.isrLatch, b.failAcc, b.result, b.cp, b.bus, b.devices⟩, h1.gaps, h1.pins,
      h1.cells.imp id ?_, h1.endpoints, h1.cntMotion, h1.payload⟩
    rintro ⟨d, i, v, hl, hc⟩
    exact ⟨d, i, v, hl, hc.trans (memWrite_cells_withHost d i v s _)⟩
  · cases h
    exact (muxStep_move s).1

end Sys2Proof.Machine
end

