-- ==== Sys2Proof/Tests/Slice0.lean ====
section
/-! SUPPORT. Tests: ill-formed configurations, words written out from 30_encoding.md and 95_test_vectors.md, one step of each
instruction on the spec's vectors (V1 to V94, S4, S5, S10), and for every obligation with hypotheses a witness that meets
them. -/

namespace Sys2Proof.Tests

open Sys2Proof Sys2Proof.Machine

/-! ### Helpers -/

/-- The reset state with chosen cells, endpoints and script. -/
def start (cells : Memory) (endpoints : Store Nat Endpoint) (gaps : List (List EnvStep)) : State :=
  { State.reset with cells := cells, endpoints := endpoints, gaps := gaps }

/-- EX1 at reset, in a quiet environment. -/
def s0 : State := start [] [] []

/-- EX2 (95_test_vectors.md section 1): EX1 without tuple 4. -/
def ex2 : Config := { Config.ex1 with chan := Config.ex1.chan.eraseIdx 4 }

def s2 : State := { s0 with cfg := ex2 }

/-- The bus events and RESULT of a step. -/
def seen (o : Host.Outcome State Fault Refusal) : Option (List BusEvent × BitVec 2) :=
  match o with
  | .next t => some (t.bus, t.result)
  | .fault _ => none
  | .refused _ => none

/-- One observation of the next state. -/
def look {α : Type} (f : State → α) (o : Host.Outcome State Fault Refusal) : Option α :=
  match o with
  | .next t => some (f t)
  | .fault _ => none
  | .refused _ => none

/-- A state whose host has the work list `ops`. -/
def working (ops : List HostOp) : State := s0.withHost { s0.host with mux := .servicing, todo := ops }

/-- A state whose host waits, with wait set 0 and 2 and slot 2 readable. -/
def waiting (m : MuxState) (quit failed : Bool) : State :=
  { start [] [(0, ⟨true, false, 0⟩), (2, ⟨true, true, 1⟩)] [] with
    waitError := failed, host := { s0.host with mux := m, quit := quit, waitSet := [(0, ()), (2, ())] } }

/-! ### Ill-formed configurations: one for each check of WellFormed.lean, refused by it -/

theorem test_ex1_wellFormed : Config.ex1.wellFormed = true ∧ ex2.wellFormed = true := by decide

theorem test_refuses_one_device :
    ({ Config.ex1 with dev := Config.ex1.dev.take 1 } : Config).wfDevCount = false ∧
    ({ Config.ex1 with dev := Config.ex1.dev.take 1 } : Config).wellFormed = false := by decide

theorem test_refuses_bank_twice :
    ({ Config.ex1 with pwmBanks := [3, 3] } : Config).wfBanks = false ∧
    ({ Config.ex1 with pwmBanks := [3, 3] } : Config).wellFormed = false := by decide

theorem test_refuses_tuple_without_bank :
    ({ Config.ex1 with chan := [⟨1, 0, 4000, 0, 0⟩] } : Config).wfChanBank = false ∧
    ({ Config.ex1 with chan := [⟨1, 0, 4000, 0, 0⟩] } : Config).wellFormed = false := by decide

theorem test_refuses_duty_outside_window :
    ({ Config.ex1 with chan := [⟨0, 48, 4000, 0, 0⟩] } : Config).wfChanCells = false ∧
    ({ Config.ex1 with chan := [⟨0, 48, 4000, 0, 0⟩] } : Config).wellFormed = false := by decide

theorem test_refuses_control_outside_window :
    ({ Config.ex1 with pwmCtrlOff := 64 } : Config).wfBankCells = false ∧
    ({ Config.ex1 with pwmCtrlOff := 64 } : Config).wellFormed = false := by decide

theorem test_refuses_enable_outside_window :
    ({ Config.ex1 with gpioIerOff := 128 } : Config).wfGpioCells = false ∧
    ({ Config.ex1 with gpioIerOff := 128 } : Config).wellFormed = false := by decide

theorem test_refuses_equal_channel_bits :
    ({ Config.ex1 with ierCh2Bit := 0 } : Config).wfDistinct = false ∧
    ({ Config.ex1 with ierCh2Bit := 0 } : Config).wellFormed = false := by decide

theorem test_refuses_long_table :
    ({ Config.ex1 with chan := List.replicate 254 ⟨0, 0, 4000, 0, 0⟩ } : Config).wfPlanLength = false := by
  simp only [Config.wfPlanLength, Config.nBank, Config.nChan, List.length_replicate]
  decide

theorem test_refuses_handle_without_window :
    ({ Config.ex1 with dev := ⟨"x", 0, false, 0, true, false, false, false, false, false, .other⟩ :: Config.ex1.dev } :
      Config).wfHandles = false := by decide

theorem test_refuses_zero_delay :
    ({ Config.ex1 with tAck := 0 } : Config).wfParameters = false ∧
    ({ Config.ex1 with tAck := 0 } : Config).wellFormed = false := by decide

/-! ### Words written out from R92, R93 and R95, and the illegal words of V70 to V81 -/

theorem test_decode_setPeriod : decode 0x0103000000001388#64 = .ok (.setPeriod 3 5000) ∧
    decode 0x01FF0000FFFFFFFF#64 = .ok (.setPeriod 255 0xFFFFFFFF) := by decide

theorem test_decode_setDuty : decode 0x0203020000000017#64 = .ok (.setDuty 3 23 2) ∧
    decode 0x0280FF00FFFFFFFE#64 = .ok (.setDuty 128 0xFFFFFFFE 255) := by decide

theorem test_decode_enable : decode 0x0303000000000000#64 = .ok (.enable 3) ∧
    decode 0x03FF000000000000#64 = .ok (.enable 255) := by decide

theorem test_decode_disable : decode 0x0403000000000000#64 = .ok (.disable 3) := by decide

theorem test_decode_setLedPercent : decode 0x10010200000003E7#64 = .ok (.setLedPercent 1 2 999) ∧
    decode 0x10FF80000000FFFF#64 = .ok (.setLedPercent 255 128 65535) := by decide

theorem test_decode_setPalette : decode 0x1101000000FF8001#64 = .ok (.setPalette 1 255 128 1) ∧
    decode 0x11010000000202E2#64 = .ok (.setPalette 1 2 2 226) := by decide

theorem test_decode_allLedsOff : decode 0x1200000000000000#64 = .ok .allLedsOff := by decide

theorem test_decode_configureDevice : decode 0x2002000000000000#64 = .ok (.configureDevice 2) := by decide

theorem test_decode_reacknowledge : decode 0x2102000000000000#64 = .ok (.reacknowledge 2) := by decide

theorem test_decode_ackNotification : decode 0x2202000000000000#64 = .ok (.ackNotification 2) := by decide

theorem test_decode_unassigned : decode 0x0000000000000000#64 = .error .unassignedOpcode ∧
    decode 0x0503000000000000#64 = .error .unassignedOpcode ∧
    decode 0xFF00000000000000#64 = .error .unassignedOpcode := by decide

theorem test_decode_reserved : decode 0x0303000100000000#64 = .error .reservedNotZero := by decide

theorem test_decode_unused : decode 0x0303000000000001#64 = .error .unusedFieldNotZero ∧
    decode 0x0303010000000000#64 = .error .unusedFieldNotZero ∧
    decode 0x0103010000001388#64 = .error .unusedFieldNotZero ∧
    decode 0x1200000000000001#64 = .error .unusedFieldNotZero ∧
    decode 0x1201000000000000#64 = .error .unusedFieldNotZero ∧
    decode 0x10000000000103E8#64 = .error .unusedFieldNotZero ∧
    decode 0x1100000001020202#64 = .error .unusedFieldNotZero ∧
    decode 0x1100010000020202#64 = .error .unusedFieldNotZero := by decide

theorem test_fetch_runs_the_word :
    decodeTableWord 64 0x0203020000000017 = some (.setDuty 3 23 2) ∧
    seen (step (State.reset.withFetchWord 64 0x0203020000000017)) = some ([.write 3 18 23], 0) := by decide

/-! ### One step of each instruction -/

/-- V1 and V11's window: a PWM window stores the count. -/
theorem test_setPeriod : seen (exec (.setPeriod 3 5000) s0) = some ([.write 3 2 0x1388], 0) ∧
    look (·.cell 3 2) (exec (.setPeriod 3 5000) s0) = some 5000 := by decide

/-- V12. -/
theorem test_setPeriod_no_slot : seen (exec (.setPeriod 4 1) s0) = some ([], 2) := by decide

/-- V5: the last cell of the window. -/
theorem test_setDuty_last_cell :
    seen (exec (.setDuty 3 0xFFFFFFFF 47) s0) = some ([.write 3 63 0xFFFFFFFF], 0) := by decide

/-- V6: the cell after it. -/
theorem test_setDuty_outside : seen (exec (.setDuty 3 1 48) s0) = some ([], 2) := by decide

/-- V7: whatever the register held. -/
theorem test_enable : look (·.cell 3 0) (exec (.enable 3) (start [((3, 0), 0xFFFFFFFF)] [] [])) = some 1 := by decide

/-- V11: the kind of the slot is not checked; the indicator's data register is overwritten. -/
theorem test_enable_other_window : seen (exec (.enable 1) s0) = some ([.write 1 0 1], 0) := by decide

/-- V10. -/
theorem test_disable : look (·.cell 3 0) (exec (.disable 3) (start [((3, 0), 0xFFFFFFFF)] [] [])) = some 0 := by decide

/-- V23. -/
theorem test_setLedPercent : seen (exec (.setLedPercent 1 2 999) s0) = some ([.write 3 21 3329], 0) := by decide

/-- V26, V27. -/
theorem test_setLedPercent_no_tuple : seen (exec (.setLedPercent 2 0 500) s0) = some ([], 1) ∧
    seen (exec (.setLedPercent 0 3 500) s0) = some ([], 1) := by decide

/-- V32. -/
theorem test_setPalette : seen (exec (.setPalette 1 255 128 1) s0) =
    some ([.write 3 19 4000, .write 3 20 1252, .write 3 21 9], 0) := by decide

/-- V36: a colour without a tuple does not stop the next one. -/
theorem test_setPalette_missing_green :
    seen (exec (.setPalette 1 255 128 1) s2) = some ([.write 3 19 4000, .write 3 21 9], 1) ∧
    look (·.failAcc) (exec (.setPalette 1 255 128 1) s2) = some true := by decide

/-- V37. -/
theorem test_allLedsOff : seen (exec .allLedsOff s0) =
    some ([.write 3 2 0x1388, .write 3 16 0, .write 3 17 0, .write 3 18 0, .write 3 19 0, .write 3 20 0, .write 3 21 0,
      .write 3 0 1], 0) := by decide

/-- V38: a duty register that no tuple names is not written. -/
theorem test_allLedsOff_other_duty :
    look (·.cell 3 22) (exec .allLedsOff (start [((3, 22), 0x5A)] [] [])) = some 0x5A := by decide

/-- V51. -/
theorem test_configureDevice : seen (exec (.configureDevice 1) s0) =
    some ([.write 1 1 0, .write 1 3 0xFFFFFFFF, .write 1 74 0, .write 1 71 0], 0) := by decide

/-- V50: two tracked channels. -/
theorem test_configureDevice_tracked : seen (exec (.configureDevice 0) s0) =
    some ([.write 0 1 0xFFFFFFFF, .write 0 3 0xFFFFFFFF, .write 0 74 3, .write 0 71 0x80000000], 0) := by decide

/-- V56 and S10: a bit that sets between the read and the write-back stays pending. -/
theorem test_reacknowledge_gap :
    look (fun t => (t.isrLatch, t.cell 0 72))
      (exec (.reacknowledge 0) (start [((0, 72), 1)] [] [[], [], [.raiseStatus 0 2]])) = some (1, 2) := by decide

/-- V57: a cause that fires again in the gap merges with its first firing. -/
theorem test_reacknowledge_merge :
    seen (exec (.reacknowledge 0) (start [((0, 72), 1)] [] [[], [], [.raiseStatus 0 1]])) =
      some ([.delay .reackPre, .read 0 72 1, .write 0 72 1, .delay .reackPost], 0) ∧
    look (·.cell 0 72) (exec (.reacknowledge 0) (start [((0, 72), 1)] [] [[], [], [.raiseStatus 0 1]])) = some 0 := by
  decide

/-- V60. -/
theorem test_ackNotification :
    seen (exec (.ackNotification 0) (start [] [(0, ⟨true, true, 7⟩)] [])) =
      some ([.notify 0 [1, 0, 0, 0], .delay .ack], 0) ∧
    look (·.endpoint 0) (exec (.ackNotification 0) (start [] [(0, ⟨true, true, 7⟩)] [])) = some ⟨false, true, 7⟩ := by
  decide

/-- V94: the host reads 4 payload bytes; `readable` falls, `masked` and the count stay. -/
theorem test_payload_read :
    look (fun t => (t.endpoint 2, t.host.payload.map fun p => (p.count, p.bytes.length)))
      (step { working [.readPayload 2] with endpoints := [(2, ⟨true, true, 9⟩)] }) =
      some (⟨true, false, 9⟩, some (9, 4)) := by decide

/-- P3 steps 6 to 8: the line is still asserted, so the driver delivers again before the delay. -/
theorem test_ackNotification_delivers_again :
    look (·.endpoint 0) (exec (.ackNotification 0)
      (start [((0, 71), 0x80000000), ((0, 72), 2), ((0, 74), 3)] [(0, ⟨true, false, 7⟩)] [[], [.deliver 0]])) =
      some ⟨true, true, 8⟩ := by decide

/-! ### The environment (V90 to V93) and the host (S5) -/

theorem test_delivery :
    (envStep (.deliver 0) (envStep (.raiseStatus 0 1)
      (start [((0, 71), 0x80000000), ((0, 72), 0), ((0, 74), 3)] [(0, ⟨false, false, 4⟩)] []))).endpoint 0 =
      ⟨true, true, 5⟩ := by decide

theorem test_no_delivery_without_enable :
    (envStep (.deliver 0) (start [((0, 71), 0x80000000), ((0, 72), 4), ((0, 74), 3)]
      [(0, ⟨false, false, 4⟩)] [])).endpoint 0 = ⟨false, false, 4⟩ := by decide

theorem test_changed_switch_word :
    look (fun t => (t.host.sw, t.host.cntSw, t.host.todo))
      (step ((working [.compareSwitches]).withHost { (working [.compareSwitches]).host with tmpA := 3 })) =
      some (3, 1, [.readIndicator, .writeIndicator 1]) := by decide

/-! ### Witnesses: for each obligation with hypotheses, values that meet them all -/

/-- Every command answers a next state from `s0` (the premise `exec i s = .next t` of the frames). -/
theorem runs (i : Instr) : ∃ t, exec i s0 = .next t :=
  ⟨_, (exec_eq i s0).trans (runCommand_ready (by decide))⟩

theorem witness_EncodeOfDecodeIsTheWord : decode 0x11010000000202E2#64 = .ok (.setPalette 1 2 2 226) := by decide

/-- A word for each clause, with every operand at its largest value. -/
theorem witness_DecodeReadsOperandsFromTheirFields : decode 0x01FF0000FFFFFFFF#64 = .ok (.setPeriod 255 0xFFFFFFFF) ∧
    decode 0x02FFFF00FFFFFFFF#64 = .ok (.setDuty 255 0xFFFFFFFF 255) ∧
    decode 0x03FF000000000000#64 = .ok (.enable 255) ∧ decode 0x04FF000000000000#64 = .ok (.disable 255) ∧
    decode 0x20FF000000000000#64 = .ok (.configureDevice 255) ∧ decode 0x21FF000000000000#64 = .ok (.reacknowledge 255) ∧
    decode 0x22FF000000000000#64 = .ok (.ackNotification 255) ∧
    decode 0x10FFFF000000FFFF#64 = .ok (.setLedPercent 255 255 65535) ∧
    decode 0x11FF000000FFFFFF#64 = .ok (.setPalette 255 255 255 255) := by decide

theorem witness_StepRunsThePresentedCommand :
    Ready (s0.withFetchWord 64 0x0303000000000000) ∧
    (s0.withFetchWord 64 0x0303000000000000).port = some 0x0303000000000000#64 ∧
    decode 0x0303000000000000#64 = .ok (.enable 3) := by decide

theorem witness_WordThatSelectsNoRowIsIllegal :
    Ready (s0.withFetchWord 64 0) ∧ (s0.withFetchWord 64 0).port = some 0#64 ∧ (∀ i, decode 0#64 ≠ .ok i) := by
  refine ⟨by decide, by decide, fun i h => ?_⟩
  have : decode 0#64 = .error .unassignedOpcode := by decide
  rw [this] at h
  cases h

/-- A failing check for each instruction that has one, at the first value past the boundary. -/
theorem witness_FailedCheckIsIllegalWithNoAccess : Ready s0 ∧
    FailsChecks s0.cfg (.setPeriod 4 1) ∧ FailsChecks s0.cfg (.setDuty 3 1 48) ∧ FailsChecks s0.cfg (.enable 4) ∧
    FailsChecks s0.cfg (.disable 255) ∧ FailsChecks s0.cfg (.configureDevice 3) ∧
    FailsChecks s0.cfg (.reacknowledge 3) ∧ FailsChecks s0.cfg (.ackNotification 1) := by
  simp only [FailsChecks]
  decide

theorem witness_EveryCommandCompletesWithTheCodeOfItsCause : Ready s0 ∧
    FailsChecks s0.cfg (.setDuty 3 1 48) ∧
    (¬ FailsChecks s0.cfg (.setLedPercent 2 0 500) ∧ MissesATuple s0.cfg (.setLedPercent 2 0 500)) ∧
    (¬ FailsChecks s0.cfg (.setDuty 3 1 47) ∧ ¬ MissesATuple s0.cfg (.setDuty 3 1 47)) := by
  simp only [FailsChecks, MissesATuple]
  decide

theorem witness_IllFormedOrBusyIsRefused :
    ({ s0 with cfg := { Config.ex1 with tAck := 0 } } : State).cfg.wellFormed = false ∧
    ({ s0 with busy := true, port := some 0 } : State).cfg.wellFormed = true ∧
    ({ s0 with busy := true, port := some 0 } : State).busy = true ∧
    ({ s0 with busy := true, port := some 0 } : State).port = some 0 := by decide

theorem witness_SetPeriodStoresTheCount :
    Ready s0 ∧ InWindow s0.cfg (3 : Byte).toNat s0.cfg.pwmPeriodOff ∧ isPwm s0.cfg (3 : Byte).toNat = true := by decide

theorem witness_SetDutyStoresTheCount : Ready s0 ∧
    InWindow s0.cfg (3 : Byte).toNat (s0.cfg.pwmDutyBase + (47 : Byte).toNat) ∧
    isPwm s0.cfg (3 : Byte).toNat = true := by decide

theorem witness_EnableStoresTheRunBitAlone :
    Ready s0 ∧ InWindow s0.cfg (3 : Byte).toNat s0.cfg.pwmCtrlOff ∧ isPwm s0.cfg (3 : Byte).toNat = true := by decide

theorem witness_DisableStoresZero :
    Ready s0 ∧ InWindow s0.cfg (3 : Byte).toNat s0.cfg.pwmCtrlOff ∧ isPwm s0.cfg (3 : Byte).toNat = true := by decide

theorem witness_EnableAndDisableStoreAndDoNotInvert :
    InWindow s0.cfg (3 : Byte).toNat s0.cfg.pwmCtrlOff ∧ isPwm s0.cfg (3 : Byte).toNat = true ∧
    (∃ t u, exec (.enable 3) s0 = .next t ∧ exec (.enable 3) t = .next u) ∧
    (∃ t, exec (.disable 3) s0 = .next t) := by
  refine ⟨by decide, by decide, ?_, runs _⟩
  obtain ⟨t, ht⟩ := runs (.enable 3)
  have hr : Ready t := by
    obtain ⟨-, rfl⟩ := runCommand_next ((exec_eq _ _).symm.trans ht)
    decide
  exact ⟨t, _, ht, (exec_eq _ t).trans (runCommand_ready hr)⟩

theorem witness_StoreCommandsTouchOneCell : (∃ t, exec (.setPeriod 3 5000) s0 = .next t) ∧
    (∃ t, exec (.setDuty 3 1 47) s0 = .next t) ∧ (∃ t, exec (.enable 3) s0 = .next t) ∧
    (∃ t, exec (.disable 3) s0 = .next t) := ⟨runs _, runs _, runs _, runs _⟩

theorem witness_PctOfGrowsFromZeroToThousand : (254 : Byte) ≠ 255 ∧ (0 : Byte) ≠ 255 := by decide

theorem witness_DutyOfIsTheTruncatedShareOfMaxDuty :
    (999 : Percent).toNat ≤ 1000 ∧ (1000 : Percent).toNat ≤ 1000 ∧ (999 : Percent).toNat ≤ (1000 : Percent).toNat ∧
    (1 : Word).toNat ≤ (999 : Word).toNat ∧ (999 : Word).toNat < 1000 ∧ (999 : Percent).toNat < 1000 := by decide

theorem witness_FormulasAreExactBeforeReduction : (1000 : Percent).toNat ≤ 1000 := by decide

/-- A pair that is found and a pair that is not. -/
theorem witness_LookupFindsTheFirstMatch :
    lookup Config.ex1 1 2 = some ⟨0, 5, 3333, 2, 1⟩ ∧ lookup Config.ex1 0 3 = none := by decide

theorem witness_SetLedPercentStoresTheDuty : Ready s0 ∧ lookup s0.cfg 1 2 = some ⟨0, 5, 3333, 2, 1⟩ := by decide

theorem witness_SetLedPercentWithoutTupleFails : Ready s0 ∧ lookup s0.cfg 2 0 = none := by decide

theorem witness_SetPaletteStoresEveryColourFound : Ready s0 ∧ Ready s2 ∧
    ¬ MissesATuple s0.cfg (.setPalette 1 255 128 1) ∧ MissesATuple s2.cfg (.setPalette 1 255 128 1) := by
  simp only [MissesATuple]
  decide

/-- All three colours of silk 1 are found in EX1, in three different cells. -/
theorem witness_SetPaletteLeavesTheDuties : (∃ t, exec (.setPalette 1 255 128 1) s0 = .next t) ∧
    lookup s0.cfg 1 tagRed = some ⟨0, 3, 4000, 0, 1⟩ ∧ lookup s0.cfg 1 tagGreen = some ⟨0, 4, 2500, 1, 1⟩ ∧
    lookup s0.cfg 1 tagBlue = some ⟨0, 5, 3333, 2, 1⟩ ∧
    dutyCell s0.cfg ⟨0, 3, 4000, 0, 1⟩ = 19 ∧ dutyCell s0.cfg ⟨0, 4, 2500, 1, 1⟩ = 20 ∧
    dutyCell s0.cfg ⟨0, 5, 3333, 2, 1⟩ = 21 := ⟨runs _, by decide⟩

theorem witness_ColourCommandsTouchOnlyTheirDuties : (∃ t, exec (.setLedPercent 1 2 999) s0 = .next t) ∧
    (∃ t, exec (.setPalette 1 255 128 1) s0 = .next t) := ⟨runs _, runs _⟩

theorem witness_AllLedsOffWritesInThreePhases : Ready s0 ∧ s0.cfg.pwmBanks = [3] ∧ s0.cfg.chan.length = 6 := by decide

theorem witness_AllLedsOffLeavesLedsDarkAndBanksEnabled :
    (∃ t, exec .allLedsOff s0 = .next t) ∧ 3 ∈ s0.cfg.pwmBanks ∧ s0.cfg.chan ≠ [] := ⟨runs _, by decide⟩

theorem witness_AllLedsOffTouchesOnlyBanksAndTable : ∃ t, exec .allLedsOff s0 = .next t := runs _

/-- EX1 with its bank stopped and its first duty lit: the bank runs after the last micro-step, and not before it. -/
theorem witness_NoBankRunsWithAnUnwrittenDuty :
    let s := start [((3, 0), 0), ((3, 16), 77)] [] []
    Ready s ∧ (∀ d ∈ s.cfg.pwmBanks, (s.cell d s.cfg.pwmCtrlOff).getLsbD s.cfg.pwmRunBit.val = false) ∧
    8 = 2 * s.cfg.nBank + s.cfg.nChan ∧ 3 ∈ s.cfg.pwmBanks ∧
    ((microSteps 8 (accept (encode .allLedsOff) s)).cell 3 s.cfg.pwmCtrlOff).getLsbD s.cfg.pwmRunBit.val = true ∧
    ((microSteps 7 (accept (encode .allLedsOff) s)).cell 3 s.cfg.pwmCtrlOff).getLsbD s.cfg.pwmRunBit.val = false := by
  decide

/-- A device with an interrupt whose channels are tracked as told. -/
def tracked (one two : Bool) : Device := ⟨"x", 0, true, 128, true, one, false, two, false, true, .other⟩

theorem witness_InterruptWordsFollowTheFlags :
    ({ tracked true true with hasIrq := false } : Device).hasIrq = false ∧ (tracked true true).hasIrq = true ∧
    ((tracked false false).enable1 && !(tracked false false).output1) = false ∧
    ((tracked true false).enable1 && !(tracked true false).output1) = true ∧
    ((tracked true false).enable2 && !(tracked true false).output2) = false ∧
    ((tracked false true).enable2 && !(tracked false true).output2) = true := by decide

theorem witness_ConfigureDeviceWritesFourRegisters : Ready s0 ∧ (s0.cfg.dev[(0 : Byte).toNat]?).isSome = true ∧
    InWindow s0.cfg (0 : Byte).toNat s0.cfg.gpioTri1Off ∧ InWindow s0.cfg (0 : Byte).toNat s0.cfg.gpioTri2Off ∧
    InWindow s0.cfg (0 : Byte).toNat s0.cfg.gpioIerOff ∧ InWindow s0.cfg (0 : Byte).toNat s0.cfg.gpioGierOff ∧
    isPwm s0.cfg (0 : Byte).toNat = false := by decide

theorem witness_ConfigureDeviceTouchesFourCells : ∃ t, exec (.configureDevice 0) s0 = .next t := runs _

theorem witness_ReacknowledgeClearsWhatWasRead : Ready s0 ∧ InWindow s0.cfg (0 : Byte).toNat s0.cfg.gpioIsrOff ∧
    isPwm s0.cfg (0 : Byte).toNat = false ∧ s0.gaps = [] ∧ s0.gaps.length ≤ 3 := by decide

/-- EX1 with a PWM window wide enough to hold the status cell's index. -/
def widePwm : Config :=
  { Config.ex1 with
    dev := Config.ex1.dev.take 3 ++ [⟨"pwm", 0, true, 128, false, false, false, false, false, false, .pwm⟩] }

theorem witness_ReacknowledgeOnPwmWindowChangesNothing :
    let s : State := { s0 with cfg := widePwm }
    Ready s ∧ InWindow s.cfg (3 : Byte).toNat s.cfg.gpioIsrOff ∧ isPwm s.cfg (3 : Byte).toNat = true ∧
    regAt s.cfg (3 : Byte).toNat s.cfg.gpioIsrOff ≠ .unknown := by decide

theorem witness_ReacknowledgeTouchesOneCell :
    (∃ t, exec (.reacknowledge 0) s0 = .next t) ∧ isPwm s0.cfg (0 : Byte).toNat = false := ⟨runs _, by decide⟩

theorem witness_AckNotificationUnmasksTheLine : Ready s0 ∧ (2 : Byte).toNat < s0.cfg.nDev ∧
    s0.cfg.hasHandle (2 : Byte).toNat = true ∧ s0.gaps.length ≤ 1 := by decide

theorem witness_AckNotificationTouchesNoWindow : ∃ t, exec (.ackNotification 0) s0 = .next t := runs _

/-- A quiet environment, and one that raises a cause in every gap of the two commands. -/
theorem witness_RearmLosesNoCause : Ready s0 ∧ InWindow s0.cfg (0 : Byte).toNat s0.cfg.gpioIsrOff ∧
    isPwm s0.cfg (0 : Byte).toNat = false ∧ s0.cfg.hasHandle (0 : Byte).toNat = true ∧ s0.gaps = [] ∧
    (∃ t u, exec (.reacknowledge 0) s0 = .next t ∧ exec (.ackNotification 0) t = .next u) ∧
    ∀ n, n ≤ 5 → ((start [] [] (List.replicate 6 [.raiseStatus 0 2])).gaps)[n]? = some [.raiseStatus 0 2] := by
  refine ⟨by decide, by decide, by decide, by decide, by decide, ?_, by decide⟩
  obtain ⟨t, ht⟩ := runs (.reacknowledge 0)
  have hr : Ready t := by
    obtain ⟨-, rfl⟩ := runCommand_next ((exec_eq _ _).symm.trans ht)
    decide
  exact ⟨t, _, ht, (exec_eq _ t).trans (runCommand_ready hr)⟩

/-- The slot with its line asserted and unmasked, and the three ways in which it does not deliver. -/
theorem witness_DeliveryNeedsAnUnmaskedAssertedLine :
    let s := start [((0, 71), 0x80000000), ((0, 72), 1), ((0, 74), 3)] [(0, ⟨false, false, 4⟩)] []
    let off := start [((0, 71), 0), ((0, 72), 4), ((0, 74), 3)] [(0, ⟨true, false, 4⟩)] []
    s.cfg.hasHandle 0 = true ∧ InWindow s.cfg 0 s.cfg.gpioIsrOff ∧ isPwm s.cfg 0 = false ∧
    (s.cell 0 s.cfg.gpioGierOff).getLsbD 31 = true ∧ s.cell 0 s.cfg.gpioIsrOff &&& s.cell 0 s.cfg.gpioIerOff ≠ 0 ∧
    (s.endpoint 0).masked = false ∧ (off.cell 0 off.cfg.gpioGierOff).getLsbD 31 = false ∧
    off.cell 0 off.cfg.gpioIsrOff &&& off.cell 0 off.cfg.gpioIerOff = 0 ∧ (off.endpoint 0).masked = true := by decide

theorem witness_ExecIsTheRunOfItsMicroSteps : Ready s0 ∧ s0.port = none := by decide

theorem reset_registers : RegisterInv State.reset :=
  ⟨rfl, rfl, rfl, rfl, rfl, rfl, by decide, fun _ => rfl, (by intro h; cases h), (by intro p h; cases h)⟩

theorem reset_windows : WindowInv State.reset :=
  ⟨(by intro e h; cases h), (by intro d h; cases h), (by intro d h; cases h)⟩

theorem steps_reset : ∃ t, step State.reset = .next t := ⟨_, rfl⟩

theorem witness_StepKeepsRegistersLegal : RegisterInv State.reset ∧ ∃ t, step State.reset = .next t :=
  ⟨reset_registers, steps_reset⟩

theorem witness_StepKeepsAccessesInsideWindows : WindowInv State.reset ∧ ∃ t, step State.reset = .next t :=
  ⟨reset_windows, steps_reset⟩

theorem witness_StepNeverChangesTheConfiguration : ∃ t, step State.reset = .next t := steps_reset

theorem witness_ArmedDevicesStayArmed :
    ({ State.reset with devices := [(0, .armed)] } : State).deviceState 0 = .armed ∧
    ∃ t, step { State.reset with devices := [(0, .armed)] } = .next t := ⟨by decide, _, rfl⟩

theorem witness_HostStepLeavesTheBlockAlone :
    s0.busy = false ∧ s0.port = none ∧ ∃ t, step s0 = .next t := ⟨by decide, by decide, _, rfl⟩

theorem witness_BootConfiguresThenDarkensThenArms :
    Ready s0 ∧ s0.port = none ∧ s0.host.mux = .beforeInitialAction ∧ s0.host.todo = [] ∧
    Ready (working [.addToWaitSet 2]) ∧ (working [.addToWaitSet 2]).port = none ∧
    (working [.addToWaitSet 2]).host.todo = .addToWaitSet 2 :: [] ∧ 0 ≠ 2 := by decide

/-- A wait with a readable handle, and one with none. -/
theorem witness_WaitServesReadyHandlesInSlotOrder :
    let s := waiting .idle false false
    let none' : State := { s with endpoints := [(0, ⟨true, false, 0⟩), (2, ⟨true, false, 1⟩)] }
    Ready s ∧ s.port = none ∧ s.host.mux = .idle ∧ s.host.todo = [] ∧
    Store.sorted natLt s.host.waitSet = true ∧ (envGap s).host.quit = false ∧ (envGap s).waitError = false ∧
    readySlots (envGap s) = [2] ∧ readySlots (envGap none') = [] := by decide

theorem witness_FailedWaitIsRetried :
    let s := waiting .idle false true
    let q := waiting .idle true true
    Ready s ∧ s.port = none ∧ s.host.mux = .idle ∧ s.host.todo = [] ∧ (envGap s).waitError = true ∧
    (envGap s).host.quit = false ∧ look (fun t => (envGap t).host.quit) (step s) = some false ∧
    Ready q ∧ q.port = none ∧ q.host.mux = .idle ∧ q.host.todo = [] ∧ (envGap q).waitError = true ∧
    (envGap q).host.quit = true := by decide

theorem witness_QuitExitsAroundTheWait :
    let s := waiting .aboutToBlock true false
    let q := waiting .idle true false
    Ready s ∧ s.port = none ∧ s.host.mux = .aboutToBlock ∧ s.host.todo = [] ∧ (envGap s).host.quit = true ∧
    Ready q ∧ q.port = none ∧ q.host.mux = .idle ∧ q.host.todo = [] ∧ (envGap q).host.quit = true := by decide

theorem witness_PayloadReadClearsReadable : Ready (working [.readPayload 2]) ∧ (working [.readPayload 2]).port = none ∧
    (working [.readPayload 2]).host.todo = .readPayload 2 :: [] ∧ 0 ≠ 2 := by decide

/-- Both kinds; both data reads with a tristate bit at 1; the counter and another slot's; the three presented commands. -/
theorem witness_DispatchRunsTheHandlerOfTheKind :
    let w (op : HostOp) : State := { working [op] with cells := [((0, 1), 5), ((0, 3), 6)] }
    (∀ op, Ready (w op) ∧ (w op).port = none ∧ (w op).host.todo = op :: []) ∧
    (Config.ex1.dev[2]?).map Device.kind = some .motion ∧ (Config.ex1.dev[0]?).map Device.kind = some .swbtn ∧
    InWindow s0.cfg 0 s0.cfg.gpioData1Off ∧ InWindow s0.cfg 0 s0.cfg.gpioData2Off ∧ isPwm s0.cfg 0 = false ∧
    ((w (.readData1 0)).cell 0 s0.cfg.gpioTri1Off).getLsbD 0 = true ∧
    ((w (.readData2 0)).cell 0 s0.cfg.gpioTri2Off).getLsbD 1 = true ∧ 0 ≠ 2 :=
  ⟨fun _ => ⟨⟨test_ex1_wellFormed.1, rfl⟩, rfl, rfl⟩, by decide⟩

/-- A switch word for each clause. -/
theorem witness_PaletteRuleIsTheFirstSwitchBit :
    Ready (working [.applyPaletteRule]) ∧ (working [.applyPaletteRule]).port = none ∧
    (working [.applyPaletteRule]).host.todo = .applyPaletteRule :: [] ∧
    (5 : Word) &&& 1 ≠ 0 ∧ ((6 : Word) &&& 1 = 0 ∧ (6 : Word) &&& 2 ≠ 0) ∧
    ((12 : Word) &&& 1 = 0 ∧ (12 : Word) &&& 2 = 0 ∧ (12 : Word) &&& 4 ≠ 0) ∧
    ((8 : Word) &&& 1 = 0 ∧ (8 : Word) &&& 2 = 0 ∧ (8 : Word) &&& 4 = 0 ∧ (8 : Word) &&& 8 ≠ 0) ∧
    ((16 : Word) &&& 1 = 0 ∧ (16 : Word) &&& 2 = 0 ∧ (16 : Word) &&& 4 = 0 ∧ (16 : Word) &&& 8 = 0) := by decide

/-- S4's start, under both policies, and the reset alone with and without a button down. -/
theorem witness_ButtonResetsPalettesBeforeTheRule :
    let w := working [.neutralIfButton, .applyPaletteRule]
    let s := w.withHost { w.host with btn := 1, sw := 1 }
    let c : Config := { s.cfg with paletteArith := .saturate }
    let n := working [.neutralIfButton]
    let m := n.withHost { n.host with btn := 6 }
    Ready s ∧ s.port = none ∧ s.host.todo = [.neutralIfButton, .applyPaletteRule] ++ [] ∧ s.host.btn ≠ 0 ∧
    s.host.sw = 1 ∧ s.cfg.paletteArith = .wrap ∧ c.wellFormed = true ∧ c.paletteArith = .saturate ∧
    Ready n ∧ n.port = none ∧ n.host.todo = .neutralIfButton :: [] ∧ n.host.btn = 0 ∧
    Ready m ∧ m.port = none ∧ m.host.todo = .neutralIfButton :: [] ∧ m.host.btn ≠ 0 := by decide

theorem witness_IndicatorToggleInvertsTheMaskBits :
    let w := working [.readIndicator, .writeIndicator motionIndMask]
    let s : State := { w with cells := [((1, 0), 5), ((1, 1), 0)] }
    Ready s ∧ s.port = none ∧ s.gaps = [] ∧ s.host.todo = [.readIndicator, .writeIndicator motionIndMask] ++ [] ∧
    InWindow s.cfg 1 s.cfg.gpioData1Off ∧ isPwm s.cfg 1 = false ∧ s.cell 1 s.cfg.gpioTri1Off = 0 := by decide

/-- An unchanged word and a changed one, for both words. -/
theorem witness_ChangedWordCountsAndTogglesOnce :
    let a := working [.compareSwitches]
    let b := working [.compareButtons]
    Ready a ∧ a.port = none ∧ a.host.todo = .compareSwitches :: [] ∧ a.host.tmpA = a.host.sw ∧
    (a.withHost { a.host with tmpA := 3 }).host.tmpA ≠ (a.withHost { a.host with tmpA := 3 }).host.sw ∧
    Ready b ∧ b.port = none ∧ b.host.todo = .compareButtons :: [] ∧ b.host.tmpB = b.host.btn ∧
    (b.withHost { b.host with tmpB := 3 }).host.tmpB ≠ (b.withHost { b.host with tmpB := 3 }).host.btn := by decide

/-- EX1 with a window of no cells in slot 1, which is then no indicator device. -/
def noIndicator : Config :=
  { Config.ex1 with dev := Config.ex1.dev.take 1 ++
      [⟨"x", 0, true, 0, false, false, false, false, false, false, .other⟩] ++ Config.ex1.dev.drop 2 }

theorem test_noIndicator_wellFormed : noIndicator.wellFormed = true := by decide

/-- A slot past the table, and a slot 1 without a data register. -/
theorem witness_HostReadOutsideTheWindowFaults :
    let w (op : HostOp) : State := { working [op] with cfg := noIndicator }
    (∀ op, Ready (w op) ∧ (w op).port = none ∧ (w op).host.todo = op :: []) ∧
    ¬ InWindow noIndicator 4 noIndicator.gpioData1Off ∧ ¬ InWindow noIndicator 4 noIndicator.gpioData2Off ∧
    ¬ InWindow noIndicator 1 noIndicator.gpioData1Off :=
  ⟨fun _ => ⟨⟨test_noIndicator_wellFormed, rfl⟩, rfl, rfl⟩, by decide⟩

end Sys2Proof.Tests
end

section
/-! PROOFS. 00_scope.md: the configuration is fixed (R19, R31), and the host's own step stays out of the block (R18, R279). -/

namespace Sys2Proof.Machine

/-! ### The configuration, operation by operation -/

@[simp] theorem doMicro_cfg (m : MicroStep) (s : State) : (doMicro m s).cfg = s.cfg := (doMicro_frame m s).cfg

@[simp] theorem finish_cfg (p : Plan) (s : State) : (finish p s).cfg = s.cfg :=
  (finish_frame NoCell NoEndpoint p s).cfg

@[simp] theorem runStart_accept_cfg (st : Start) (w : CommandWord) (s : State) :
    (runStart st (accept w s)).cfg = s.cfg := by
  cases st with
  | raise c => exact (raise_frame NoCell NoEndpoint w c s).1.cfg
  | run p => exact (runStart_frame w p s).cfg

@[simp] theorem microStep_cfg (s : State) : (microStep s).cfg = s.cfg := by
  rcases microStep_cases s with ⟨c, h⟩ | ⟨p, -, h⟩ | ⟨p, m, -, -, h | h⟩ <;> simp [h]

/-! ### A step of the host software after its gap -/

theorem hostStep_envGap_cfg {s t : State} (h : hostStep (envGap s) = .next t) : t.cfg = s.cfg :=
  (hostStep_move h).cfg.trans (envGap_cfg s)

/-- R83: the gap before the host's move is the environment's, and neither of the two touches the block. -/
theorem hostStep_envGap_blockKept {s t : State} (h : hostStep (envGap s) = .next t) : BlockKept s t :=
  (envGap_blockKept s).trans (hostStep_move h).block

/-! ### The obligations -/

/-- Settles O45, by the kinds of step: a micro-step, a whole command, a word that is no command, a move of the host. -/
theorem stepNeverChangesTheConfiguration : Obligations.StepNeverChangesTheConfiguration := by
  intro s t h
  obtain ⟨-, ⟨-, -, rfl⟩ | ⟨-, w, i, -, -, rfl⟩ | ⟨-, w, -, rfl⟩ | ⟨-, -, hhost⟩⟩ := step_cases h
  · exact microStep_cfg s
  · exact runStart_accept_cfg _ _ _
  · exact runStart_accept_cfg _ _ _
  · exact hostStep_envGap_cfg hhost

/-- Settles O48: with no command in flight or presented, only the fourth kind of step is left. -/
theorem hostStepLeavesTheBlockAlone : Obligations.HostStepLeavesTheBlockAlone := by
  intro s t hbusy hport h
  obtain ⟨-, ⟨hb, -⟩ | ⟨-, w, i, hp, -⟩ | ⟨-, w, hp, -⟩ | ⟨-, -, hhost⟩⟩ := step_cases h
  · simp [hbusy] at hb
  · simp [hport] at hp
  · simp [hport] at hp
  · exact hostStep_envGap_blockKept hhost

end Sys2Proof.Machine
end

section
/-! PROOFS. 10_state.md: how a step begins (R25, R36), a command that raises FAIL (R143), and what reset
leaves (R55, R261). -/

namespace Sys2Proof.Machine

/-- Settles O6: the block is idle, so `step` runs the word at the port, and the word decodes to `i`. -/
theorem stepRunsThePresentedCommand : Obligations.StepRunsThePresentedCommand := by
  rintro s w i ⟨hw, hbusy⟩ hport hdec
  simp [step, hw, hbusy, hport, runPortWord, hdec]

theorem runCommand_illFormed {s : State} (h : s.cfg.wellFormed = false) (w : CommandWord) (st : Start) :
    runCommand w st s = .refused .illFormedConfiguration := by
  simp [runCommand, h]

theorem runCommand_busy {s : State} (hw : s.cfg.wellFormed = true) (hb : s.busy = true) (w : CommandWord) (st : Start) :
    runCommand w st s = .refused .commandWhileBusy := by
  simp [runCommand, hw, hb]

/-- Settles O10: `exec` is `runCommand`, whose two guards are those of `step`. -/
theorem illFormedOrBusyIsRefused : Obligations.IllFormedOrBusyIsRefused := by
  intro s i w
  rw [exec_eq]
  refine ⟨fun hw => ⟨runCommand_illFormed hw _ _, ?_⟩, fun hw hb => ⟨runCommand_busy hw hb _ _, fun hp => ?_⟩⟩
  · simp [step, hw]
  · simp [step, hw, hb, hp]

/-- Settles O46: each field as `State.reset` lists it; no device is listed, so each is unconfigured. -/
theorem resetLeavesTheListedValues : Obligations.ResetLeavesTheListedValues :=
  ⟨rfl, rfl, rfl, rfl, rfl, rfl, fun _ => rfl, rfl, rfl, rfl, rfl, rfl, rfl, rfl, rfl, rfl, rfl⟩

/-- Settles O22: without a tuple the plan is a `raise`, which is acceptance and completion alone. -/
theorem setLedPercentWithoutTupleFails : Obligations.SetLedPercentWithoutTupleFails := by
  intro s silk tag percent hr hnone
  have hplan : planOf s.cfg (.setLedPercent silk tag percent) = .raise .fail := by
    simp [planOf, planSetLedPercent, hnone]
  rw [exec_eq, hplan, runCommand_ready hr]
  rfl

end Sys2Proof.Machine
end

section
/-! PROOFS. 10_state.md: one gap of the environment, move by move (R83, R210 to R212). -/

namespace Sys2Proof.Machine

/-- A gap performs the first list of the script and uses it up. -/
theorem envGap_eq (s : State) : envGap s = envSteps (s.gaps.headD []) { s with gaps := s.gaps.tail } := by
  unfold envGap
  split
  · next h =>
    rw [h]
    show s = { s with gaps := [] }
    rw [← h]
  · next g gs h => rw [h]; rfl

/-- A status move stores into the slot's status register, if it has one. -/
theorem envStep_raiseStatus (d : Nat) (bits : Word) (s : State) : envStep (.raiseStatus d bits) s = s ∨
    (hasStatus s.cfg d = true ∧ envStep (.raiseStatus d bits) s =
      s.setCell d s.cfg.gpioIsrOff (s.cell d s.cfg.gpioIsrOff ||| bits)) := by
  simp only [envStep]
  split
  · next h => exact .inr ⟨h, rfl⟩
  · exact .inl rfl

/-- A delivery writes the slot's endpoint, if the driver delivers. -/
theorem envStep_deliver (d : Nat) (s : State) :
    envStep (.deliver d) s = s ∨ ∃ e, envStep (.deliver d) s = s.setEndpoint d e := by
  simp only [envStep]
  split
  · exact .inr ⟨_, rfl⟩
  · exact .inl rfl

theorem envStep_pin {e : EnvStep} {d : Nat} {ch : GpioChannel} (h : ∀ level, e ≠ .setInputs d ch level) (s : State) :
    (envStep e s).pin d ch = s.pin d ch := by
  cases e with
  | raiseStatus d' bits => obtain he | ⟨-, he⟩ := envStep_raiseStatus d' bits s <;> simp [he]
  | setInputs d' ch' level =>
    refine setPin_pin_ne s level ?_
    rintro ⟨rfl, rfl⟩
    exact h level rfl
  | deliver d' => obtain he | ⟨e, he⟩ := envStep_deliver d' s <;> simp [he]
  | quitSignal => rfl
  | waitFails => rfl

theorem envStep_waitError (e : EnvStep) (s : State) :
    (envStep e s).waitError = true ↔ s.waitError = true ∨ e = .waitFails := by
  cases e with
  | raiseStatus d bits => obtain he | ⟨-, he⟩ := envStep_raiseStatus d bits s <;> simp [he]
  | setInputs d ch level => simp [envStep]
  | deliver d => obtain he | ⟨e, he⟩ := envStep_deliver d s <;> simp [he]
  | quitSignal => simp [envStep]
  | waitFails => simp [envStep]

theorem envStep_quit (e : EnvStep) (s : State) :
    (envStep e s).host.quit = true ↔ s.host.quit = true ∨ e = .quitSignal := by
  cases e with
  | raiseStatus d bits => obtain he | ⟨-, he⟩ := envStep_raiseStatus d bits s <;> simp [he]
  | setInputs d ch level => simp [envStep]
  | deliver d => obtain he | ⟨e, he⟩ := envStep_deliver d s <;> simp [he]
  | quitSignal => simp [envStep]
  | waitFails => simp [envStep]

theorem envSteps_pin {es : List EnvStep} {d : Nat} {ch : GpioChannel}
    (h : ∀ level, EnvStep.setInputs d ch level ∉ es) (s : State) : (envSteps es s).pin d ch = s.pin d ch := by
  induction es generalizing s with
  | nil => rfl
  | cons e es ih =>
    have he (level : Word) : e ≠ .setInputs d ch level := by
      rintro rfl
      exact h level List.mem_cons_self
    exact (ih (fun level hl => h level (List.mem_cons_of_mem _ hl)) _).trans (envStep_pin he s)

/-- What single moves set for good, a list of moves sets exactly if it holds the move. -/
theorem envSteps_iff {f : State → Prop} {m : EnvStep} (hf : ∀ e s, f (envStep e s) ↔ f s ∨ e = m)
    (es : List EnvStep) (s : State) : f (envSteps es s) ↔ f s ∨ m ∈ es := by
  induction es generalizing s with
  | nil => simp [envSteps]
  | cons e es ih => rw [envSteps, ih, hf, or_assoc, List.mem_cons, eq_comm]

/-- Settles O39: the gap performs one list of moves; each claim is one on a single move, carried along the list. -/
theorem environmentOnlySetsStatusAndDelivers : Obligations.EnvironmentOnlySetsStatusAndDelivers := by
  intro s
  refine ⟨envGap_frame s, envGap_blockKept s, envGap_freeReads s, envGap_gaps s, fun d ch h => ?_, ?_, ?_⟩
  · rw [envGap_eq]
    exact envSteps_pin h _
  · rw [envGap_eq]
    exact envSteps_iff (f := fun t => t.waitError = true) envStep_waitError _ _
  · rw [envGap_eq]
    exact envSteps_iff (f := fun t => t.host.quit = true) envStep_quit _ _

end Sys2Proof.Machine
end

section
/-! PROOFS. 10_state.md: how the stores change (R56, R60, R66, R67): by writes alone, those of cells inside windows. -/

namespace Sys2Proof.Machine

/-! ### Stores that change by writes at keys with a property -/

/-- `m'` comes from `m` by writes at keys with the property `P`. -/
def Store.Writes {K V : Type} [DecidableEq K] (lt : K → K → Bool) (P : K → Prop) : Store K V → Store K V → Prop :=
  Relation.ReflTransGen fun m m' => ∃ k v, P k ∧ m' = Store.set lt k v m

section
variable {K V : Type} [DecidableEq K] {lt : K → K → Bool} {P : K → Prop} {m m' : Store K V}

theorem Store.Writes.refl (m : Store K V) : Store.Writes lt P m m := Relation.ReflTransGen.refl

theorem Store.Writes.of_eq (h : m' = m) : Store.Writes lt P m m' := by
  rw [h]
  exact .refl m

theorem Store.Writes.set {k : K} (hk : P k) (v : V) (m : Store K V) : Store.Writes lt P m (Store.set lt k v m) :=
  Relation.ReflTransGen.single ⟨k, v, hk, rfl⟩

theorem Store.Writes.trans {m'' : Store K V} (h : Store.Writes lt P m m') (h' : Store.Writes lt P m' m'') :
    Store.Writes lt P m m'' := Relation.ReflTransGen.trans h h'

/-- Writes keep the canonical form. -/
theorem Store.Writes.sorted (o : KeyOrder lt) (h : Store.Writes lt P m m') (hm : Store.sorted lt m = true) :
    Store.sorted lt m' = true := by
  induction h with
  | refl => exact hm
  | tail _ hstep ih =>
    obtain ⟨k, v, -, rfl⟩ := hstep
    exact Store.sorted_set o k v ih

/-- Every key is an old one or a written one. -/
theorem Store.Writes.keys (h : Store.Writes lt P m m') (hm : ∀ e ∈ m, P e.1) : ∀ e ∈ m', P e.1 := by
  induction h with
  | refl => exact hm
  | tail _ hstep ih =>
    obtain ⟨k, v, hk, rfl⟩ := hstep
    intro e he
    rcases Store.mem_set he with rfl | he
    · exact hk
    · exact ih e he

end

/-- The stores of the machine change by writes alone, and cells are written inside windows only (R66, R67, R70). -/
structure StoresWritten (s t : State) : Prop where
  cfg       : t.cfg = s.cfg
  cells     : Store.Writes cellLt (fun k => cellLegal s.cfg k.1 k.2 = true) s.cells t.cells
  pins      : Store.Writes cellLt (fun _ => True) s.pins t.pins
  endpoints : Store.Writes natLt (fun _ => True) s.endpoints t.endpoints
  devices   : Store.Writes natLt (fun _ => True) s.devices t.devices

/-- An update that touches no store. -/
theorem StoresWritten.of_eq {s t : State} (hcfg : t.cfg = s.cfg) (hcells : t.cells = s.cells) (hpins : t.pins = s.pins)
    (hend : t.endpoints = s.endpoints) (hdev : t.devices = s.devices) : StoresWritten s t :=
  ⟨hcfg, .of_eq hcells, .of_eq hpins, .of_eq hend, .of_eq hdev⟩

theorem StoresWritten.refl (s : State) : StoresWritten s s := .of_eq rfl rfl rfl rfl rfl

theorem StoresWritten.trans {s t u : State} (h : StoresWritten s t) (h' : StoresWritten t u) : StoresWritten s u where
  cfg := h'.cfg.trans h.cfg
  cells := h.cells.trans (h.cfg ▸ h'.cells)
  pins := h.pins.trans h'.pins
  endpoints := h.endpoints.trans h'.endpoints
  devices := h.devices.trans h'.devices

theorem setCell_storesWritten {s : State} {d i : Nat} (h : cellLegal s.cfg d i = true) (v : Word) :
    StoresWritten s (s.setCell d i v) :=
  ⟨rfl, .set (k := (d, i)) h v s.cells, .refl _, .refl _, .refl _⟩

theorem setPin_storesWritten (s : State) (d : Nat) (ch : GpioChannel) (v : Word) : StoresWritten s (s.setPin d ch v) :=
  ⟨rfl, .refl _, .set trivial v s.pins, .refl _, .refl _⟩

theorem setEndpoint_storesWritten (s : State) (d : Nat) (e : Endpoint) : StoresWritten s (s.setEndpoint d e) :=
  ⟨rfl, .refl _, .refl _, .set trivial e s.endpoints, .refl _⟩

theorem setDeviceState_storesWritten (s : State) (d : Nat) (x : DeviceState) :
    StoresWritten s (s.setDeviceState d x) :=
  ⟨rfl, .refl _, .refl _, .refl _, .set trivial x s.devices⟩

theorem memWrite_storesWritten {s : State} {d i : Nat} (h : cellLegal s.cfg d i = true) (v : Word) :
    StoresWritten s (memWrite d i v s) := by
  unfold memWrite
  split
  · exact .refl s
  · exact setCell_storesWritten h _

/-! ### The environment's writes -/

theorem envStep_storesWritten (e : EnvStep) (s : State) : StoresWritten s (envStep e s) := by
  cases e with
  | raiseStatus d bits =>
    obtain he | ⟨hs, he⟩ := envStep_raiseStatus d bits s
    · rw [he]; exact .refl s
    · simp only [hasStatus, Bool.and_eq_true] at hs
      exact he ▸ setCell_storesWritten hs.1 _
  | setInputs d ch level => exact setPin_storesWritten s d ch level
  | deliver d =>
    obtain he | ⟨e, he⟩ := envStep_deliver d s
    · rw [he]; exact .refl s
    · exact he ▸ setEndpoint_storesWritten s d e
  | quitSignal => exact .of_eq rfl rfl rfl rfl rfl
  | waitFails => exact .of_eq rfl rfl rfl rfl rfl

theorem envSteps_storesWritten (es : List EnvStep) (s : State) : StoresWritten s (envSteps es s) := by
  induction es generalizing s with
  | nil => exact .refl s
  | cons e es ih => exact (envStep_storesWritten e s).trans (ih _)

theorem envGap_storesWritten (s : State) : StoresWritten s (envGap s) := by
  rw [envGap_eq]
  have h : StoresWritten s { s with gaps := s.gaps.tail } := .of_eq rfl rfl rfl rfl rfl
  exact h.trans (envSteps_storesWritten _ _)

/-! ### The block's writes -/

/-- A micro-step writes inside windows only. -/
def MicroOp.Legal (c : Config) (m : MicroOp) : Prop := ∀ d i, m.Touches c d i → cellLegal c d i = true

theorem microEffect_storesWritten {m : MicroOp} {s : State} (h : m.Legal s.cfg) : StoresWritten s (microEffect m s) := by
  have hrec (e : BusEvent) (t : State) : StoresWritten t (record e t) := .of_eq rfl rfl rfl rfl rfl
  cases m with
  | write d i v => exact (memWrite_storesWritten (h d i ⟨rfl, rfl⟩) v).trans (hrec _ _)
  | readStatus d =>
    obtain ⟨n, hn⟩ := afterRead_eq s d s.cfg.gpioIsrOff
    simp only [microEffect, hn]
    exact .of_eq rfl rfl rfl rfl rfl
  | writeLatch d => exact (memWrite_storesWritten (h d s.cfg.gpioIsrOff ⟨rfl, rfl⟩) s.isrLatch).trans (hrec _ _)
  | notify d => exact (setEndpoint_storesWritten s d _).trans (hrec _ _)
  | delay T => exact hrec _ s

theorem noteFailure_storesWritten (b : Bool) (s : State) : StoresWritten s (noteFailure b s) :=
  .of_eq rfl rfl rfl rfl rfl

theorem doMicro_storesWritten {m : MicroStep} {s : State} (h : m.op.Legal s.cfg) : StoresWritten s (doMicro m s) := by
  have hbefore : StoresWritten s (beforeEffect m s) := (noteFailure_storesWritten _ s).trans (envGap_storesWritten _)
  have heffect : StoresWritten (beforeEffect m s) (microEffect m.op (beforeEffect m s)) :=
    microEffect_storesWritten (by rwa [beforeEffect_cfg])
  exact (hbefore.trans heffect).trans (.of_eq rfl rfl rfl rfl rfl)

theorem doMicros_storesWritten {ms : List MicroStep} {s : State} (h : ∀ m ∈ ms, m.op.Legal s.cfg) :
    StoresWritten s (doMicros ms s) := by
  induction ms generalizing s with
  | nil => exact .refl s
  | cons m ms ih =>
    refine (doMicro_storesWritten (h m List.mem_cons_self)).trans (ih fun m' hm' => ?_)
    rw [doMicro_cfg]
    exact h m' (List.mem_cons_of_mem _ hm')

theorem accept_storesWritten (w : CommandWord) (s : State) : StoresWritten s (accept w s) := .of_eq rfl rfl rfl rfl rfl

theorem complete_storesWritten (c : ResultCode) (s : State) : StoresWritten s (complete c s) :=
  .of_eq rfl rfl rfl rfl rfl

theorem armDevice_storesWritten (a : Option Nat) (s : State) : StoresWritten s (armDevice a s) := by
  cases a with
  | none => exact .refl s
  | some d => exact setDeviceState_storesWritten s d .armed

theorem finish_storesWritten (p : Plan) (s : State) : StoresWritten s (finish p s) :=
  ((noteFailure_storesWritten _ s).trans (armDevice_storesWritten p.arms _)).trans (complete_storesWritten _ _)

end Sys2Proof.Machine
end

section
/-! PROOFS. 10_state.md: the plans of the commands, said once: which cells they touch (R98), how long they are (R36 (8)), and
which of them can note a failed sub-call (R21, R148). -/

namespace Sys2Proof

theorem whenZero_eq_ok {b : Bool} {i j : Instr} : whenZero b i = .ok j ↔ b = true ∧ i = j := by
  cases b <;> simp [whenZero]

/-- The OPC field of a word is that of the command its row decodes to (R95). -/
theorem fieldOpc_of_decodeFormat {w : CommandWord} {i : Instr} (h : decodeFormat w = .ok i) :
    fieldOpc w = fieldOpc (encode i) := by
  apply BitVec.eq_of_toNat_eq
  unfold decodeFormat at h
  split at h
  case h_2 hopc =>
    cases h
    simpa [encode, fieldOpc_pack] using hopc
  case h_11 => cases h
  all_goals
    obtain ⟨-, rfl⟩ := whenZero_eq_ok.1 h
    simpa [encode, fieldOpc_pack]

theorem decodeFormat_of_decode {w : CommandWord} {i : Instr} (h : decode w = .ok i) : decodeFormat w = .ok i := by
  unfold decode at h
  split at h
  · split at h
    · exact h
    · cases h
  · cases h

theorem fieldOpc_of_decode {w : CommandWord} {i : Instr} (h : decode w = .ok i) : fieldOpc w = fieldOpc (encode i) :=
  fieldOpc_of_decodeFormat (decodeFormat_of_decode h)

/-- A packed word decodes by the row its OPC selects, if that is assigned. -/
theorem decode_pack {opc sel idx : Byte} {data : Word} (h : assignedOpcode opc = true) :
    decode (pack opc sel idx 0 data) = decodeFormat (pack opc sel idx 0 data) := by
  simp [decode, fieldOpc_pack, fieldRsv_pack, h]

/-- Decoding the word of a command gives the command (R91, R94). -/
theorem decode_encode (i : Instr) : decode (encode i) = .ok i := by
  cases i <;> rw [encode, decode_pack (by decide)] <;>
    simp only [decodeFormat, fieldOpc_pack, fieldSel_pack, fieldIdx_pack, fieldData_pack, data_parts, percent_data,
      palette_data] <;> rfl

namespace Machine

/-! ### The plans -/

/-- What holds of every plan of a command in a well-formed configuration: its micro-steps write inside windows (R98), there
are at most 255 of them (R36 (8)), and a failed sub-call is noted for SETPALETTE alone (R21). -/
structure Plan.Fits (c : Config) (i : Instr) (p : Plan) : Prop where
  legal   : ∀ m ∈ p.steps, m.op.Legal c
  length  : p.steps.length ≤ 255
  failure : (p.steps.any (·.failedBefore) || p.failedAfter) = true → fieldOpc (encode i) = 0x11

theorem write_legal {c : Config} {d i : Nat} (h : cellLegal c d i = true) (v : Word) :
    (MicroOp.write d i v).Legal c := by
  rintro _ _ ⟨rfl, rfl⟩
  exact h

theorem dutyWrite_legal {c : Config} (hw : c.wellFormed = true) {ch : Channel} (hch : ch ∈ c.chan) (duty : Word) :
    (dutyWrite c ch duty).Legal c :=
  write_legal (cellLegal_iff.2 (wf_chan hw hch).2.1) duty

/-- A plan without sub-calls. -/
theorem planOk_fits {c : Config} {ops : List MicroOp} (i : Instr) (hops : ∀ op ∈ ops, op.Legal c)
    (hlen : ops.length ≤ 255) : (planOk ops).Fits c i where
  legal := by simpa [planOk] using hops
  length := by simpa [planOk] using hlen
  failure := by simp [planOk]

theorem Plan.Fits.arming {c : Config} {i : Instr} {p : Plan} (h : p.Fits c i) (arms : Option Nat) :
    Plan.Fits c i { p with arms := arms } := ⟨h.legal, h.length, h.failure⟩

theorem planStore_fits {c : Config} {d j : Nat} {v : Word} {p : Plan} (i : Instr) (h : planStore c d j v = .run p) :
    p.Fits c i := by
  unfold planStore at h
  split at h
  · next hl =>
    cases h
    exact planOk_fits i (by simpa using write_legal hl v) (by simp)
  · cases h

theorem planSetLedPercent_fits {c : Config} (hw : c.wellFormed = true) {silk tag : Byte} {percent : Percent} {p : Plan}
    (i : Instr) (h : planSetLedPercent c silk tag percent = .run p) : p.Fits c i := by
  unfold planSetLedPercent at h
  split at h
  · cases h
  · next ch hch =>
    cases h
    exact planOk_fits i (by simpa using dutyWrite_legal hw (lookup_mem hch) _) (by simp)

theorem paletteSubCall_legal {c : Config} (hw : c.wellFormed = true) {silk tag x : Byte} {op : MicroOp}
    (h : paletteSubCall c silk tag x = some op) : op.Legal c := by
  obtain ⟨ch, hch, rfl⟩ := Option.map_eq_some_iff.1 h
  exact dutyWrite_legal hw (lookup_mem hch) _

theorem planSetPalette_fits {c : Config} (hw : c.wellFormed = true) {silk r g b : Byte} {p : Plan}
    (h : planSetPalette c silk r g b = .run p) : p.Fits c (.setPalette silk r g b) := by
  cases h
  have hops := subCallPlan_ops false
    [paletteSubCall c silk tagRed r, paletteSubCall c silk tagGreen g, paletteSubCall c silk tagBlue b]
  refine ⟨fun m hm => ?_, ?_, fun _ => ?_⟩
  · have hop := List.mem_map_of_mem (f := MicroStep.op) hm
    rw [hops] at hop
    obtain ⟨o, ho, hsome⟩ := List.mem_filterMap.1 hop
    simp only [List.mem_cons, List.not_mem_nil, or_false] at ho
    obtain rfl | rfl | rfl := ho <;> exact paletteSubCall_legal hw hsome
  · have hlen := congrArg List.length hops
    rw [List.length_map] at hlen
    rw [hlen]
    exact (List.length_filterMap_le _ _).trans (by simp)
  · rw [encode, fieldOpc_pack]

theorem planAllLedsOff_fits {c : Config} (hw : c.wellFormed = true) {p : Plan} (i : Instr)
    (h : planAllLedsOff c = .run p) : p.Fits c i := by
  cases h
  refine planOk_fits i (fun op hop => ?_) ?_
  · simp only [List.mem_append, List.mem_map] at hop
    obtain (⟨d, hd, rfl⟩ | ⟨ch, hch, rfl⟩) | ⟨d, hd, rfl⟩ := hop
    · exact write_legal (cellLegal_iff.2 (wf_bank hw hd).2.1) _
    · exact dutyWrite_legal hw hch 0
    · exact write_legal (cellLegal_iff.2 (wf_bank hw hd).1) _
  · have hl := wf_length hw
    simp only [Config.nBank, Config.nChan] at hl
    simp only [List.length_append, List.length_map]
    omega

theorem planConfigureDevice_fits {c : Config} {dev : Byte} {p : Plan} (i : Instr)
    (h : planConfigureDevice c dev = .run p) : p.Fits c i := by
  unfold planConfigureDevice at h
  split at h
  · cases h
  · next D _ =>
    split at h
    · next hl =>
      cases h
      simp only [List.all_cons, List.all_nil, Bool.and_true, Bool.and_eq_true] at hl
      obtain ⟨htri1, htri2, hier, hgier⟩ := hl
      refine (planOk_fits i (fun op hop => ?_) (by simp [configureWrites])).arming _
      simp only [configureWrites, List.mem_cons, List.not_mem_nil, or_false] at hop
      obtain rfl | rfl | rfl | rfl := hop
      · exact write_legal htri1 _
      · exact write_legal htri2 _
      · exact write_legal hier _
      · exact write_legal hgier _
    · cases h

theorem planReacknowledge_fits {c : Config} {dev : Byte} {p : Plan} (i : Instr)
    (h : planReacknowledge c dev = .run p) : p.Fits c i := by
  unfold planReacknowledge at h
  split at h
  · next hl =>
    cases h
    refine planOk_fits i (fun op hop => ?_) (by simp)
    simp only [List.mem_cons, List.not_mem_nil, or_false] at hop
    obtain rfl | rfl | rfl | rfl := hop
    · exact fun _ _ ht => ht.elim
    · exact fun _ _ ht => ht.elim
    · rintro _ _ ⟨rfl, rfl⟩
      exact hl
    · exact fun _ _ ht => ht.elim
  · cases h

theorem planAckNotification_fits {c : Config} {dev : Byte} {p : Plan} (i : Instr)
    (h : planAckNotification c dev = .run p) : p.Fits c i := by
  unfold planAckNotification at h
  split at h
  · cases h
    refine planOk_fits i (fun op hop => ?_) (by simp)
    simp only [List.mem_cons, List.not_mem_nil, or_false] at hop
    obtain rfl | rfl := hop <;> exact fun _ _ ht => ht.elim
  · cases h

theorem planOf_fits {c : Config} (hw : c.wellFormed = true) {i : Instr} {p : Plan} (h : planOf c i = .run p) :
    p.Fits c i := by
  cases i with
  | setPeriod dev count => exact planStore_fits _ h
  | setDuty dev count idx => exact planStore_fits _ h
  | enable dev => exact planStore_fits _ h
  | disable dev => exact planStore_fits _ h
  | setLedPercent silk tag percent => exact planSetLedPercent_fits hw _ h
  | setPalette silk r g b => exact planSetPalette_fits hw h
  | allLedsOff => exact planAllLedsOff_fits hw _ h
  | configureDevice dev => exact planConfigureDevice_fits _ h
  | reacknowledge dev => exact planReacknowledge_fits _ h
  | ackNotification dev => exact planAckNotification_fits _ h

/-- A word with a plan decodes to a command, whose plan it is (R97). -/
theorem startOfWord_run {c : Config} {w : CommandWord} {p : Plan} (h : startOfWord c w = .run p) :
    ∃ i, decode w = .ok i ∧ planOf c i = .run p := by
  unfold startOfWord at h
  split at h
  · next i hi => exact ⟨i, hi, h⟩
  · cases h

theorem startOfWord_encode (c : Config) (i : Instr) : startOfWord c (encode i) = planOf c i := by
  simp [startOfWord, decode_encode]

end Machine

end Sys2Proof
end

section
/-! PROOFS. 10_state.md: what every step keeps: the canonical stores and legal registers (R21, R26, R64, R201), the touched
cells inside windows (R66, R67, R70) and the wait set (R31). -/

namespace Sys2Proof.Machine

/-! ### The stores under a step -/

theorem runStart_storesWritten {i : Instr} {s : State} (hw : s.cfg.wellFormed = true) :
    StoresWritten s (runStart (planOf s.cfg i) s) := by
  cases hp : planOf s.cfg i with
  | raise c => exact complete_storesWritten c s
  | run p => exact (doMicros_storesWritten (planOf_fits hw hp).legal).trans (finish_storesWritten p _)

theorem microStep_storesWritten {s : State} (hw : s.cfg.wellFormed = true) : StoresWritten s (microStep s) := by
  rcases microStep_cases s with ⟨c, h⟩ | ⟨p, -, h⟩ | ⟨p, m, hp, hm, h⟩
  · exact h ▸ complete_storesWritten c s
  · exact h ▸ finish_storesWritten p s
  · obtain ⟨i, -, hi⟩ := startOfWord_run hp
    have hmicro := doMicro_storesWritten ((planOf_fits hw hi).legal m hm)
    rcases h with h | h
    · exact h ▸ hmicro.trans (finish_storesWritten p _)
    · exact h ▸ hmicro

theorem HostMove.storesWritten {s t : State} (h : HostMove s t) : StoresWritten s t where
  cfg := h.cfg
  cells := by
    obtain he | ⟨d, i, v, hl, he⟩ := h.cells
    · exact .of_eq he
    · rw [he]
      exact (memWrite_storesWritten hl v).cells
  pins := .of_eq h.pins
  endpoints := by
    obtain he | ⟨d, he⟩ := h.endpoints
    · exact .of_eq he
    · rw [he]
      exact .set trivial _ _
  devices := .of_eq h.block.devices

theorem step_storesWritten {s t : State} (h : step s = .next t) : StoresWritten s t := by
  obtain ⟨hw, ⟨-, -, rfl⟩ | ⟨-, w, i, -, -, rfl⟩ | ⟨-, w, -, rfl⟩ | ⟨-, -, hhost⟩⟩ := step_cases h
  · exact microStep_storesWritten hw
  · have hacc : StoresWritten s (accept (encode i) { s with port := none }) := .of_eq rfl rfl rfl rfl rfl
    exact hacc.trans (runStart_storesWritten hw)
  · exact .of_eq rfl rfl rfl rfl rfl
  · exact (envGap_storesWritten s).trans (hostStep_move hhost).storesWritten

/-! ### The host's state under a step -/

/-- Every cell and every endpoint: the frame of a step whose writes are not named. -/
abbrev AnyCell : Nat → Nat → Prop := fun _ _ => True
abbrev AnyEndpoint : Nat → Prop := fun _ => True

theorem microStep_frame (s : State) : Frame AnyCell AnyEndpoint s (microStep s) := by
  have hmicro (m : MicroStep) : Frame AnyCell AnyEndpoint s (doMicro m s) :=
    (doMicro_frame m s).mono (fun _ _ _ => trivial) (fun _ _ => trivial)
  rcases microStep_cases s with ⟨c, h⟩ | ⟨p, -, h⟩ | ⟨p, m, -, -, h | h⟩
  · exact h ▸ complete_frame _ _ c s
  · exact h ▸ finish_frame _ _ p s
  · exact h ▸ (hmicro m).trans (finish_frame _ _ p _)
  · exact h ▸ hmicro m

theorem runStart_accept_frame (st : Start) (w : CommandWord) (s : State) :
    Frame AnyCell AnyEndpoint s (runStart st (accept w s)) := by
  cases st with
  | raise c => exact (raise_frame _ _ w c s).1
  | run p => exact (runStart_frame w p s).mono (fun _ _ _ => trivial) (fun _ _ => trivial)

/-- R18: a step of the block keeps the host's state; every other step is a move of the host after one gap. -/
theorem step_hostKept_or_hostStep {s t : State} (h : step s = .next t) :
    HostKept s t ∨ hostStep (envGap s) = .next t := by
  obtain ⟨-, ⟨-, -, rfl⟩ | ⟨-, w, i, -, -, rfl⟩ | ⟨-, w, -, rfl⟩ | ⟨-, -, hhost⟩⟩ := step_cases h
  · exact .inl (microStep_frame s).host
  · exact .inl (runStart_accept_frame _ _ { s with port := none }).host
  · exact .inl (runStart_accept_frame _ _ { s with port := none }).host
  · exact .inr hhost

theorem pendingSources_cons (op : HostOp) (ops : List HostOp) :
    pendingSources (op :: ops) = pendingSources [op] ++ pendingSources ops := pendingSources_append [op] ops

/-- A move of the host leaves the wait set, empties it, or adds a source it had planned to add; it plans to add further
sources of R31 only. -/
theorem hostStep_sources {s t : State} (h : hostStep s = .next t) :
    (t.host.waitSet = s.host.waitSet ∨ t.host.waitSet = [] ∨
      ∃ d ∈ pendingSources s.host.todo, t.host.waitSet = Store.set natLt d () s.host.waitSet) ∧
    ∀ d ∈ pendingSources t.host.todo, d ∈ pendingSources s.host.todo ∨ s.cfg.inWaitSet d = true := by
  unfold hostStep at h
  split at h
  · next op rest htodo =>
    obtain ⟨-, hplanned, hset⟩ := hostOp_move h
    rw [htodo, pendingSources_cons, hplanned]
    refine ⟨?_, fun d hd => .inl (List.mem_append_right _ hd)⟩
    obtain hset | ⟨d, rfl, hset⟩ := hset
    · exact .inl hset
    · exact .inr (.inr ⟨d, List.mem_cons_self, hset⟩)
  · cases h
    obtain ⟨-, hset, hplanned⟩ := muxStep_move s
    exact ⟨hset.imp id .inl, hplanned⟩

/-! ### The registers under a step (R21, R26, R201) -/

/-- The block's registers hold legal values: RESULT is never 3, K is 0 between commands, and FAILACC is 1 only for a
SETPALETTE word. -/
structure BlockLegal (s : State) : Prop where
  result  : s.result ≠ 3
  k       : s.busy = false → s.k = 0
  failAcc : s.failAcc = true → fieldOpc s.cmd = 0x11

theorem BlockKept.blockLegal {s t : State} (h : BlockKept s t) (hs : BlockLegal s) : BlockLegal t where
  result := h.result ▸ hs.result
  k := by rw [h.busy, h.k]; exact hs.k
  failAcc := by rw [h.failAcc, h.cmd]; exact hs.failAcc

theorem ResultCode.bits_ne_three (c : ResultCode) : c.bits ≠ 3 := by cases c <;> decide

theorem complete_blockLegal {s : State} (c : ResultCode) (h : s.failAcc = true → fieldOpc s.cmd = 0x11) :
    BlockLegal (complete c s) := ⟨c.bits_ne_three, fun _ => rfl, h⟩

theorem finish_blockLegal {p : Plan} {s : State}
    (h : (s.failAcc || p.failedAfter) = true → fieldOpc s.cmd = 0x11) : BlockLegal (finish p s) := by
  refine complete_blockLegal _ ?_
  cases p.arms <;> exact h

/-- A micro-step of a command in flight. -/
theorem microStep_blockLegal {s : State} (hw : s.cfg.wellFormed = true) (hb : s.busy = true) (hs : BlockLegal s) :
    BlockLegal (microStep s) := by
  have hnoted {p : Plan} (hp : startOfWord s.cfg s.cmd = .run p)
      (h : (p.steps.any (·.failedBefore) || p.failedAfter) = true) : fieldOpc s.cmd = 0x11 := by
    obtain ⟨i, hdec, hi⟩ := startOfWord_run hp
    rw [fieldOpc_of_decode hdec]
    exact (planOf_fits hw hi).failure h
  have hafter {p : Plan} (hp : startOfWord s.cfg s.cmd = .run p) (h : p.failedAfter = true) : fieldOpc s.cmd = 0x11 :=
    hnoted hp (by rw [h, Bool.or_true])
  rcases microStep_cases s with ⟨c, h⟩ | ⟨p, hp, h⟩ | ⟨p, m, hp, hm, h⟩
  · exact h ▸ complete_blockLegal c hs.failAcc
  · rw [h]
    refine finish_blockLegal fun hf => ?_
    exact (Bool.or_eq_true_iff.1 hf).elim hs.failAcc (hafter hp)
  · obtain ⟨hcmd, hbusy, -, hfail, hres, -⟩ := doMicro_block m s
    have hbefore (hf : (doMicro m s).failAcc = true) : fieldOpc (doMicro m s).cmd = 0x11 := by
      rw [hcmd]
      rw [hfail] at hf
      refine (Bool.or_eq_true_iff.1 hf).elim hs.failAcc fun hmf => hnoted hp ?_
      rw [List.any_eq_true.2 ⟨m, hm, hmf⟩, Bool.true_or]
    rcases h with h | h
    · rw [h]
      refine finish_blockLegal fun hf => (Bool.or_eq_true_iff.1 hf).elim hbefore fun ha => ?_
      rw [hcmd]
      exact hafter hp ha
    · rw [h]
      exact ⟨hres ▸ hs.result, fun hidle => by simp [hbusy, hb] at hidle, hbefore⟩

/-- A whole command ends with legal registers, whatever they held. -/
theorem runStart_blockLegal {i : Instr} {s : State} (hw : s.cfg.wellFormed = true) :
    BlockLegal (runStart (planOf s.cfg i) (accept (encode i) s)) := by
  cases hp : planOf s.cfg i with
  | raise c => exact complete_blockLegal c (by simp)
  | run p =>
    obtain ⟨hcmd, -, -, hfail, -⟩ := doMicros_block p.steps (accept (encode i) s)
    refine finish_blockLegal fun hf => ?_
    rw [hfail, accept_failAcc, Bool.false_or] at hf
    rw [hcmd, accept_cmd]
    exact (planOf_fits hw hp).failure hf

theorem step_blockLegal {s t : State} (h : step s = .next t) (hs : BlockLegal s) : BlockLegal t := by
  obtain ⟨hw, ⟨hb, -, rfl⟩ | ⟨-, w, i, -, -, rfl⟩ | ⟨-, w, -, rfl⟩ | ⟨-, -, hhost⟩⟩ := step_cases h
  · exact microStep_blockLegal hw hb hs
  · exact runStart_blockLegal (s := { s with port := none }) hw
  · exact complete_blockLegal .illegal (by simp)
  · exact (hostStep_envGap_blockKept hhost).blockLegal hs

/-! ### The host's records under a step (R31, R64) -/

/-- The host's records are in their canonical form, and a payload has NOTIFY_PAYLOAD_BYTES bytes. -/
structure HostLegal (s : State) : Prop where
  waitSet   : Store.sorted natLt s.host.waitSet = true
  cntMotion : Store.sorted natLt s.host.cntMotion = true
  payload   : ∀ p, s.host.payload = some p → p.bytes.length = s.cfg.notifyPayloadBytes

theorem HostKept.hostLegal {s t : State} (h : HostKept s t) (hcfg : t.cfg = s.cfg) (hs : HostLegal s) : HostLegal t := by
  constructor <;> rw [h.1]
  · exact hs.waitSet
  · exact hs.cntMotion
  · rw [hcfg]
    exact hs.payload

theorem hostStep_hostLegal {s t : State} (h : hostStep s = .next t) (hs : HostLegal s) : HostLegal t where
  waitSet := by
    obtain hw | hw | ⟨d, -, hw⟩ := (hostStep_sources h).1 <;> rw [hw]
    · exact hs.waitSet
    · rfl
    · exact Store.sorted_set natLt_order d () hs.waitSet
  cntMotion := by
    obtain hc | ⟨d, n, hc⟩ := (hostStep_move h).cntMotion <;> rw [hc]
    · exact hs.cntMotion
    · exact Store.sorted_set natLt_order d n hs.cntMotion
  payload := by
    rw [(hostStep_move h).cfg]
    obtain hp | ⟨d, n, hp⟩ := (hostStep_move h).payload <;> rw [hp]
    · exact hs.payload
    · rintro _ ⟨⟩
      exact payloadOf_length s.cfg d n

theorem envGap_hostLegal {s : State} (hs : HostLegal s) : HostLegal (envGap s) :=
  (envGap_frame s).host.hostLegal (envGap_cfg s) hs

theorem step_hostLegal {s t : State} (h : step s = .next t) (hs : HostLegal s) : HostLegal t := by
  obtain hkept | hhost := step_hostKept_or_hostStep h
  · exact hkept.hostLegal (step_storesWritten h).cfg hs
  · exact hostStep_hostLegal hhost (envGap_hostLegal hs)

/-! ### The obligations -/

/-- Settles O42: writes keep the canonical form of the stores; the block's registers and the host's records keep theirs. -/
theorem stepKeepsRegistersLegal : Obligations.StepKeepsRegistersLegal := by
  rintro s t ⟨hcells, hpins, hend, hdev, hwait, hcnt, hres, hk, hfail, hpay⟩ h
  have hstores := step_storesWritten h
  have hblock := step_blockLegal h ⟨hres, hk, hfail⟩
  have hhost := step_hostLegal h ⟨hwait, hcnt, hpay⟩
  exact ⟨hstores.cells.sorted cellLt_order hcells, hstores.pins.sorted cellLt_order hpins,
    hstores.endpoints.sorted natLt_order hend, hstores.devices.sorted natLt_order hdev, hhost.waitSet,
    hhost.cntMotion, hblock.result, hblock.k, hblock.failAcc, hhost.payload⟩

/-- Every source that is or will be in the wait set is one of R31. -/
structure SourcesValid (s : State) : Prop where
  waiting : ∀ d ∈ Store.keys s.host.waitSet, s.cfg.inWaitSet d = true
  planned : ∀ d ∈ pendingSources s.host.todo, s.cfg.inWaitSet d = true

theorem windowInv_iff {s : State} :
    WindowInv s ↔ (∀ e ∈ s.cells, cellLegal s.cfg e.1.1 e.1.2 = true) ∧ SourcesValid s :=
  ⟨fun ⟨h1, h2, h3⟩ => ⟨h1, h2, h3⟩, fun ⟨h1, h2, h3⟩ => ⟨h1, h2, h3⟩⟩

theorem HostKept.sourcesValid {s t : State} (h : HostKept s t) (hcfg : t.cfg = s.cfg) (hs : SourcesValid s) :
    SourcesValid t := by
  constructor <;> rw [h.1, hcfg]
  · exact hs.waiting
  · exact hs.planned

theorem hostStep_sourcesValid {s t : State} (h : hostStep s = .next t) (hs : SourcesValid s) : SourcesValid t := by
  obtain ⟨hset, hplanned⟩ := hostStep_sources h
  constructor <;> rw [(hostStep_move h).cfg]
  · obtain hset | hset | ⟨d, hd, hset⟩ := hset <;> rw [hset]
    · exact hs.waiting
    · simp [Store.keys]
    · intro d' hd'
      obtain ⟨e, he, rfl⟩ := List.mem_map.1 hd'
      obtain rfl | he := Store.mem_set he
      · exact hs.planned d hd
      · exact hs.waiting _ (List.mem_map_of_mem he)
  · exact fun d hd => (hplanned d hd).elim (hs.planned d) id

theorem step_sourcesValid {s t : State} (h : step s = .next t) (hs : SourcesValid s) : SourcesValid t := by
  obtain hkept | hhost := step_hostKept_or_hostStep h
  · exact hkept.sourcesValid (step_storesWritten h).cfg hs
  · exact hostStep_sourcesValid hhost ((envGap_frame s).host.sourcesValid (envGap_cfg s) hs)

/-- Settles O43: a cell is touched by a write inside a window only; the host waits on the sources it planned to add. -/
theorem stepKeepsAccessesInsideWindows : Obligations.StepKeepsAccessesInsideWindows := by
  intro s t hs h
  obtain ⟨hcells, hsources⟩ := windowInv_iff.1 hs
  have hstores := step_storesWritten h
  refine windowInv_iff.2 ⟨?_, step_sourcesValid h hsources⟩
  rw [hstores.cfg]
  exact hstores.cells.keys hcells

end Sys2Proof.Machine
end

section
/-! PROOFS. 10_state.md: a whole command is the run of its micro-steps (R25, R26, R83). -/

namespace Sys2Proof.Machine

theorem step_busy {s : State} (hw : s.cfg.wellFormed = true) (hb : s.busy = true) (hp : s.port = none) :
    step s = .next (microStep s) := by
  simp [step, hw, hb, hp]

theorem core_run_succ {M : Host.Core} {s t : M.State} (h : M.step s = .next t) (n : Nat) :
    M.run (n + 1) s = M.run n t := by
  rw [Host.Core.run, h]

/-- While a command is in flight and none is presented, the steps of the machine are its micro-steps. -/
theorem run_eq_microSteps {n : Nat} {s : State} (hw : s.cfg.wellFormed = true) (hp : s.port = none)
    (hb : ∀ m, m < n → (microSteps m s).busy = true) : core.run n s = .next (microSteps n s) := by
  induction n generalizing s with
  | zero => rfl
  | succ n ih =>
    have hstep : core.step s = .next (microStep s) := step_busy hw (hb 0 n.succ_pos) hp
    refine (core_run_succ hstep n).trans (ih ?_ ?_ fun m hm => hb (m + 1) (Nat.succ_lt_succ hm))
    · rwa [microStep_cfg]
    · rwa [(microStep_frame s).port]

/-- One micro-step that is the whole command: a `raise`, or the completion of an empty plan. -/
theorem runStart_microSteps_one {st : Start} {s : State} (hb : s.busy = true) (h : microStep s = runStart st s) :
    ∃ n, n ≤ 255 ∧ runStart st s = microSteps n s ∧ ∀ m, m < n → (microSteps m s).busy = true := by
  refine ⟨1, by decide, h.symm, fun m hm => ?_⟩
  obtain rfl : m = 0 := by omega
  exact hb

/-- A command from its acceptance on is the run of its micro-steps, in flight until the last of them. -/
theorem runStart_microSteps {st : Start} {s : State} (hstart : startOfWord s.cfg s.cmd = st) (hb : s.busy = true)
    (hk : s.k = 0) (hlen : ∀ p, st = .run p → p.steps.length ≤ 255) :
    ∃ n, n ≤ 255 ∧ runStart st s = microSteps n s ∧ ∀ m, m < n → (microSteps m s).busy = true := by
  cases st with
  | raise c => exact runStart_microSteps_one hb (by rw [microStep, hstart]; rfl)
  | run p =>
    have hlen := hlen p rfl
    rcases Nat.eq_zero_or_pos p.steps.length with hzero | hpos
    · have hnil := List.length_eq_zero_iff.1 hzero
      exact runStart_microSteps_one hb (by rw [microStep, hstart]; simp [hnil, runStart, doMicros])
    · refine ⟨p.steps.length, hlen, (microSteps_length hstart hk hlen hpos).symm, fun m hm => ?_⟩
      rw [microSteps_lt hstart hk hlen hm]
      obtain ⟨-, hbusy, -⟩ := doMicros_block (p.steps.take m) s
      rw [hbusy, hb]

/-- Settles O41: BUSY is 1 after each micro-step but the last, so the machine's steps are the command's micro-steps. -/
theorem execIsTheRunOfItsMicroSteps : Obligations.ExecIsTheRunOfItsMicroSteps := by
  intro s i hr hport
  obtain ⟨n, hn, hall, hbusy⟩ := runStart_microSteps (s := accept (encode i) s) (startOfWord_encode s.cfg i) rfl rfl
    fun p hp => (planOf_fits hr.1 hp).length
  have hrun (m : Nat) (hm : m ≤ n) :
      core.run m (accept (encode i) s) = .next (microSteps m (accept (encode i) s)) :=
    run_eq_microSteps hr.1 hport fun l hl => hbusy l (Nat.lt_of_lt_of_le hl hm)
  have hexec : exec i s = core.run n (accept (encode i) s) := by
    rw [exec_eq, runCommand_ready hr, hall]
    exact (hrun n le_rfl).symm
  exact ⟨n, hn, hexec, fun m hm => ⟨_, hrun m hm.le, hbusy m hm⟩⟩

end Sys2Proof.Machine
end

section
/-! PROOFS. 10_state.md: REACKNOWLEDGE, which reads the status register and writes back what it read (R176 to R180). -/

namespace Sys2Proof.Machine

/-- A micro-step adds its event to the record. -/
theorem doMicro_bus (m : MicroStep) (s : State) : (doMicro m s).bus = s.bus ++ [m.op.event (beforeEffect m s)] := by
  obtain ⟨-, -, -, -, -, -, -, hbus, -⟩ := doMicro_block m s
  exact hbus

/-- A micro-step other than the status read keeps ISR_LATCH. -/
theorem doMicro_isrLatch {m : MicroStep} (h : ∀ d, m.op ≠ .readStatus d) (s : State) :
    (doMicro m s).isrLatch = s.isrLatch := by
  obtain ⟨-, -, -, -, -, -, -, -, hkept⟩ := doMicro_block m s
  exact (hkept h).1

/-- A REACKNOWLEDGE of slot `d` after its status read. -/
def reackRead (w : CommandWord) (d : Nat) (s : State) : State :=
  doMicro ⟨false, .readStatus d⟩ (doMicro ⟨false, .delay .reackPre⟩ (accept w s))

/-- A REACKNOWLEDGE of slot `d` after its write-back. -/
def reackWritten (w : CommandWord) (d : Nat) (s : State) : State :=
  doMicro ⟨false, .writeLatch d⟩ (reackRead w d s)

/-- The whole REACKNOWLEDGE. -/
def reackDone (w : CommandWord) (d : Nat) (s : State) : State :=
  runStart (.run (planOk [.delay .reackPre, .readStatus d, .writeLatch d, .delay .reackPost])) (accept w s)

section
variable (w : CommandWord) (d : Nat) (s : State)

theorem reackDelay_same : SameEnv (envGap s) (doMicro ⟨false, .delay .reackPre⟩ (accept w s)) :=
  doMicro_same _ (accept_same w s) (.inl ⟨_, rfl⟩)

theorem reackRead_same : SameEnv (envGap (envGap s)) (reackRead w d s) :=
  doMicro_same _ (reackDelay_same w s) (.inr ⟨d, rfl⟩)

@[simp] theorem reackRead_cfg : (reackRead w d s).cfg = s.cfg := by simp [reackRead]

/-- What is latched: the value the status register returns after two gaps. -/
theorem reackRead_isrLatch : ∃ x, SameEnv (envGap (envGap s)) x ∧
    (reackRead w d s).isrLatch = readValue x d s.cfg.gpioIsrOff := by
  refine ⟨_, beforeEffect_same ⟨false, .readStatus d⟩ (reackDelay_same w s), ?_⟩
  rw [reackRead, (doMicro_readStatus false d _).1, doMicro_cfg, accept_cfg]

/-- The cell after the write-back: the status before it, which the latched value is written to. -/
theorem reackWritten_cell : (reackWritten w d s).cell d s.cfg.gpioIsrOff =
    written (regAt s.cfg d s.cfg.gpioIsrOff) ((envGap (envGap (envGap s))).cell d s.cfg.gpioIsrOff)
      (reackRead w d s).isrLatch := by
  have hsame := beforeEffect_same ⟨false, .writeLatch d⟩ (reackRead_same w d s)
  rw [reackWritten, State.cell, (doMicro_writeLatch false d _).1, ← State.cell, reackRead_cfg, memWrite_cell_self,
    beforeEffect_cfg, reackRead_cfg, hsame.cell]

/-- Three lists of the script are used up. -/
theorem reackWritten_gaps : (reackWritten w d s).gaps = s.gaps.tail.tail.tail := by
  rw [reackWritten, (doMicro_writeLatch false d _).2.1,
    (beforeEffect_same ⟨false, .writeLatch d⟩ (reackRead_same w d s)).gaps]
  simp

@[simp] theorem reackWritten_cfg : (reackWritten w d s).cfg = s.cfg := by simp [reackWritten]

/-- The last delay leaves the cells as its gap left them. -/
theorem reackDone_cell (i : Nat) : (reackDone w d s).cell d i = (envGap (reackWritten w d s)).cell d i := by
  rw [reackDone, runStart_cell]
  exact congrArg (fun m : Memory => (Store.get? m (d, i)).getD (Config.Free.cellAtReset d i))
    (doMicro_delay false .reackPost (reackWritten w d s)).2.1

theorem reackWritten_isrLatch : (reackWritten w d s).isrLatch = (reackRead w d s).isrLatch :=
  doMicro_isrLatch (by simp) _

theorem reackDone_isrLatch : (reackDone w d s).isrLatch = (reackRead w d s).isrLatch := by
  rw [reackDone, runStart, (finish_kept _ _).2.1, ← reackWritten_isrLatch]
  exact doMicro_isrLatch (by simp) _

theorem reackRead_bus : (reackRead w d s).bus =
    s.bus ++ [.delay .reackPre, .read d s.cfg.gpioIsrOff (reackRead w d s).isrLatch] := by
  have hlatch := (doMicro_readStatus false d (doMicro ⟨false, .delay .reackPre⟩ (accept w s))).1
  simp only [reackRead, doMicro_bus, MicroOp.event, beforeEffect_cfg, doMicro_cfg, accept_cfg] at hlatch ⊢
  rw [hlatch]
  simp

theorem reackWritten_bus : (reackWritten w d s).bus = s.bus ++ [.delay .reackPre,
    .read d s.cfg.gpioIsrOff (reackRead w d s).isrLatch, .write d s.cfg.gpioIsrOff (reackRead w d s).isrLatch] := by
  rw [reackWritten, doMicro_bus, reackRead_bus]
  simp [MicroOp.event, beforeEffect]

theorem reackDone_bus : (reackDone w d s).bus = s.bus ++ [.delay .reackPre,
    .read d s.cfg.gpioIsrOff (reackRead w d s).isrLatch, .write d s.cfg.gpioIsrOff (reackRead w d s).isrLatch,
    .delay .reackPost] := by
  have hlast := doMicro_bus ⟨false, .delay .reackPost⟩ (reackWritten w d s)
  rw [reackWritten_bus] at hlast
  rw [reackDone, runStart, (finish_kept _ _).1]
  refine hlast.trans ?_
  simp [MicroOp.event]

end

theorem exec_reacknowledge {s : State} {dev : Byte} (hr : Ready s) (hin : InWindow s.cfg dev.toNat s.cfg.gpioIsrOff) :
    exec (.reacknowledge dev) s = .next (reackDone (encode (.reacknowledge dev)) dev.toNat s) := by
  have hplan : planOf s.cfg (.reacknowledge dev) = .run (planOk
      [.delay .reackPre, .readStatus dev.toNat, .writeLatch dev.toNat, .delay .reackPost]) :=
    if_pos (cellLegal_iff.2 hin)
  rw [exec_eq, runCommand_ready hr, hplan]
  rfl

/-- A register that is no data register and not unknown returns what it holds (R68). -/
theorem readValue_stored {s : State} {d i : Nat} (h1 : regAt s.cfg d i ≠ .data1) (h2 : regAt s.cfg d i ≠ .data2)
    (h3 : regAt s.cfg d i ≠ .unknown) : readValue s d i = s.cell d i := by
  unfold readValue
  split
  · next h => exact absurd h h1
  · next h => exact absurd h h2
  · next h => exact absurd h h3
  · rfl

/-- A PWM window has no data registers. -/
theorem regAt_pwm_ne_data {c : Config} {d : Nat} (h : isPwm c d = true) (i : Nat) :
    regAt c d i ≠ .data1 ∧ regAt c d i ≠ .data2 := by
  simp only [regAt, h, if_true, pwmRegAt]
  split_ifs <;> simp

/-- Settles O33: the latch holds S1, and writing it to S2 clears exactly the bits of S1; the last gap may only add bits. -/
theorem reacknowledgeClearsWhatWasRead : Obligations.ReacknowledgeClearsWhatWasRead := by
  intro s dev hr hin hpwm S1 S2
  have hreg := regAt_gpioIsr hpwm
  obtain ⟨x, hsame, hread⟩ := reackRead_isrLatch (encode (.reacknowledge dev)) dev.toNat s
  have hlatch : (reackRead (encode (.reacknowledge dev)) dev.toNat s).isrLatch = S1 := by
    have hx : regAt x.cfg dev.toNat s.cfg.gpioIsrOff = .isr := by simpa [hsame.cfg] using hreg
    rw [hread, readValue_stored (by simp [hx]) (by simp [hx]) (by simp [hx]), hsame.cell]
  have hwritten : (reackWritten (encode (.reacknowledge dev)) dev.toNat s).cell dev.toNat s.cfg.gpioIsrOff =
      S2 &&& ~~~S1 := by
    rw [reackWritten_cell, hreg, hlatch, written_isr]
  have hdone (hg : s.gaps.length ≤ 3) :
      (reackDone (encode (.reacknowledge dev)) dev.toNat s).cell dev.toNat s.cfg.gpioIsrOff = S2 &&& ~~~S1 := by
    have hgaps : s.gaps.tail.tail.tail = [] := by
      rw [← List.length_eq_zero_iff]
      simp only [List.length_tail]
      omega
    rw [reackDone_cell, envGap_quiet (by rw [reackWritten_gaps, hgaps]), hwritten]
  refine ⟨_, exec_reacknowledge hr hin, planOk_completed _ _ s, ?_, ?_, ?_, hdone, fun hq => ?_⟩
  · rw [reackDone_isrLatch, hlatch]
  · rw [reackDone_bus, hlatch]
  · rw [reackDone_cell, ← hwritten]
    exact envGap_status _ _ _
  · rw [hdone (by simp [hq])]
    simp only [S1, S2, envGap_quiet hq]
    exact BitVec.and_not_self _

/-- Settles O34: a PWM window has no status register, so no gap changes the cell; a known register gets back what it holds,
and an unknown cell keeps its contents under any write. -/
theorem reacknowledgeOnPwmWindowChangesNothing : Obligations.ReacknowledgeOnPwmWindowChangesNothing := by
  intro s dev hr hin hpwm
  have hgap {t : State} (hc : t.cfg = s.cfg) (i : Nat) : (envGap t).cell dev.toNat i = t.cell dev.toNat i :=
    envGap_cell (regAt_ne_isr_of_isPwm (by rwa [hc]) i)
  have hlatch (hknown : regAt s.cfg dev.toNat s.cfg.gpioIsrOff ≠ .unknown) :
      (reackRead (encode (.reacknowledge dev)) dev.toNat s).isrLatch = s.cell dev.toNat s.cfg.gpioIsrOff := by
    obtain ⟨x, hsame, hread⟩ := reackRead_isrLatch (encode (.reacknowledge dev)) dev.toNat s
    have hx : x.cfg = s.cfg := by simp [hsame.cfg]
    obtain ⟨hd1, hd2⟩ := regAt_pwm_ne_data hpwm s.cfg.gpioIsrOff
    rw [hread, readValue_stored (by rwa [hx]) (by rwa [hx]) (by rwa [hx]), hsame.cell, hgap (by simp), hgap rfl]
  refine ⟨_, exec_reacknowledge hr hin, planOk_completed _ _ s, ?_, ?_, fun hknown => ?_⟩
  · rw [reackDone_isrLatch, reackDone_bus]
  · rw [reackDone_cell, hgap (by simp), reackWritten_cell, hgap (by simp), hgap (by simp), hgap rfl]
    by_cases hknown : regAt s.cfg dev.toNat s.cfg.gpioIsrOff = .unknown
    · rw [hknown, written_unknown]
    · rw [written_plain (regAt_ne_isr_of_isPwm hpwm _) hknown, hlatch hknown]
  · rw [reackDone_isrLatch, hlatch hknown]

end Sys2Proof.Machine
end

section
/-! PROOFS. 10_state.md: the handlers the host dispatches to, and what their actions do (R226, R228, R231). -/

namespace Sys2Proof.Machine

/-! ### The data registers (R41) -/

/-- The cell of a channel's data register, and of its tristate register. -/
def GpioChannel.dataOff (c : Config) : GpioChannel → Nat
  | .ch1 => c.gpioData1Off
  | .ch2 => c.gpioData2Off

def GpioChannel.triOff (c : Config) : GpioChannel → Nat
  | .ch1 => c.gpioTri1Off
  | .ch2 => c.gpioTri2Off

/-- A channel's data register reads by its tristate register (R41, R42; log 8). -/
theorem readValue_dataOff {s : State} {d : Nat} (hw : s.cfg.wellFormed = true) (hpwm : isPwm s.cfg d = false)
    (ch : GpioChannel) : readValue s d (ch.dataOff s.cfg) =
      dataValue (s.cell d (ch.triOff s.cfg)) (s.cell d (ch.dataOff s.cfg)) (s.pin d ch) := by
  have hn := wf_gpio_nodup hw
  simp only [List.nodup_cons, List.mem_cons, List.not_mem_nil, or_false, not_or] at hn
  obtain ⟨⟨-, h12, -, -, h1isr, -⟩, -, ⟨-, -, h2isr, -⟩, -⟩ := hn
  cases ch with
  | ch1 =>
    have hreg : regAt s.cfg d s.cfg.gpioData1Off = .data1 := by simp [regAt, hpwm, gpioRegAt, h1isr]
    simp [readValue, GpioChannel.dataOff, GpioChannel.triOff, hreg]
  | ch2 =>
    have hreg : regAt s.cfg d s.cfg.gpioData2Off = .data2 := by simp [regAt, hpwm, gpioRegAt, h2isr, Ne.symm h12]
    simp [readValue, GpioChannel.dataOff, GpioChannel.triOff, hreg]

/-- On an input bit the data register presents the input level. -/
theorem dataValue_input {tri : Word} {n : Nat} (h : tri.getLsbD n = true) (latch level : Word) :
    (dataValue tri latch level).getLsbD n = level.getLsbD n := by
  simp [dataValue, h]

/-- No gap changes a tristate register, so an input bit reads as the level after the gap. -/
theorem readValue_envGap_input {s : State} {d n : Nat} {ch : GpioChannel} (hw : s.cfg.wellFormed = true)
    (hpwm : isPwm s.cfg d = false) (htri : (s.cell d (ch.triOff s.cfg)).getLsbD n = true) :
    (readValue (envGap s) d (ch.dataOff s.cfg)).getLsbD n = ((envGap s).pin d ch).getLsbD n := by
  have hplain : regAt s.cfg d (ch.triOff s.cfg) ≠ .isr := by
    cases ch with
    | ch1 => exact (gpio_plain hw hpwm (.inl rfl)).1
    | ch2 => exact (gpio_plain hw hpwm (.inr (.inl rfl))).1
  have hread := readValue_dataOff (s := envGap s) (d := d) (by simpa using hw) (by simpa using hpwm) ch
  simp only [envGap_cfg] at hread
  rw [hread, envGap_cell hplain, dataValue_input htri]

/-! ### The first action of the work list -/

/-- A window read of the host: it changes no cell, and of the host's state what it does with the value. -/
theorem hostRead_next {d i : Nat} {s : State} (h : InWindow s.cfg d i) (f : Word → HostSoftware → HostSoftware) :
    ∃ t, hostRead d i (fun v t => t.withHost (f v t.host)) s = .next t ∧ t.cells = s.cells ∧
      t.host = f (readValue s d i) s.host := by
  obtain ⟨n, hn⟩ := afterRead_eq s d i
  refine ⟨_, hostRead_legal (cellLegal_iff.2 h), ?_⟩
  rw [hn]
  exact ⟨rfl, rfl⟩

section
variable {s : State} {rest : List HostOp} (hr : Ready s) (hport : s.port = none)
include hr hport

theorem step_dispatch {d : Nat} (htodo : s.host.todo = .dispatch d :: rest) :
    ∃ t, step s = .next t ∧ t.host.todo = handlerOps s.cfg d ++ rest := by
  refine ⟨_, step_hostOp hr hport htodo, ?_⟩
  simp

/-- An action that reads a window cell and does `f` with the value in the host's own state. -/
theorem step_hostRead {op : HostOp} {d i : Nat} (f : Word → HostSoftware → HostSoftware)
    (htodo : s.host.todo = op :: rest) (hin : InWindow s.cfg d i)
    (hop : ∀ t, t.cfg = s.cfg → hostOp op t = hostRead d i (fun v t => t.withHost (f v t.host)) t) :
    ∃ t, step s = .next t ∧ t.cells = (envGap s).cells ∧
      t.host = f (readValue (envGap s) d i) { (envGap s).host with todo := rest } := by
  obtain ⟨t, ht, hcells, hhost⟩ := hostRead_next
    (s := (envGap s).withHost { (envGap s).host with todo := rest }) (by simpa using hin) f
  refine ⟨t, ?_, hcells, hhost⟩
  rw [step_hostOp hr hport htodo, hop _ (by simp), ht]

theorem step_countMotion {d : Nat} (htodo : s.host.todo = .countMotion d :: rest) :
    ∃ t, step s = .next t ∧ t.host.todo = rest ∧
      t.host.cntMotion = Store.set natLt d ((Store.get? s.host.cntMotion d).getD 0 + 1) s.host.cntMotion := by
  refine ⟨_, step_hostOp hr hport htodo, rfl, ?_⟩
  rw [envGap_host]
  rfl

/-- An action that presents a command leaves the rest of the work list. -/
theorem step_presents {op : HostOp} {i : Instr} (htodo : s.host.todo = op :: rest)
    (hop : ∀ t, t.cfg = s.cfg → t.host.pal0 = s.host.pal0 → t.host.pal1 = s.host.pal1 →
      hostOp op t = .next (presentCommand i t)) :
    ∃ t, step s = .next t ∧ t.host.todo = rest ∧ t.port = some (encode i) := by
  refine ⟨_, (step_hostOp hr hport htodo).trans (hop _ ?_ ?_ ?_), rfl, rfl⟩
  · simp
  · rw [withHost_host, envGap_host]
  · rw [withHost_host, envGap_host]

end

/-- Settles O54: the plan is the handler's by the slot's kind; each other clause is one action of the work list. -/
theorem dispatchRunsTheHandlerOfTheKind : Obligations.DispatchRunsTheHandlerOfTheKind := by
  intro s rest hr hport
  refine ⟨fun d D htodo hD => ?_, fun d htodo hin => ?_, fun d htodo hin => ?_, fun d htodo => ?_, fun i htodo => ?_,
    fun htodo => ?_, fun htodo => ?_⟩
  · obtain ⟨t, ht, hplan⟩ := step_dispatch hr hport htodo
    refine ⟨t, ht, fun hkind => ?_, fun hkind => ?_⟩ <;>
      simp [hplan, handlerOps, hD, hkind, motionOps, switchOps, rearmOps, rearm, slotByte, motionIndMask]
  · obtain ⟨t, ht, hcells, hhost⟩ := step_hostRead hr hport (fun v h => { h with tmpA := v }) htodo hin
      fun _ hcfg => by rw [hostOp, hcfg]
    refine ⟨t, ht, by rw [hhost], hcells, by rw [hhost], fun hpwm n htri => ?_⟩
    rw [hhost]
    exact readValue_envGap_input (ch := .ch1) hr.1 hpwm htri
  · obtain ⟨t, ht, hcells, hhost⟩ := step_hostRead hr hport (fun v h => { h with tmpB := v }) htodo hin
      fun _ hcfg => by rw [hostOp, hcfg]
    refine ⟨t, ht, by rw [hhost], hcells, by rw [hhost], fun hpwm n htri => ?_⟩
    rw [hhost]
    exact readValue_envGap_input (ch := .ch2) hr.1 hpwm htri
  · obtain ⟨t, ht, htodo', hcnt⟩ := step_countMotion hr hport htodo
    refine ⟨t, ht, htodo', ?_, fun d' hd' => ?_⟩ <;> rw [hcnt]
    · exact Store.get?_set_self _ _ _ _
    · exact Store.get?_set_ne _ _ _ hd'
  · exact step_presents hr hport htodo fun _ _ _ _ => rfl
  · exact step_presents hr hport htodo fun _ hcfg hpal _ => by rw [hostOp, hcfg, hpal]
  · exact step_presents hr hport htodo fun _ hcfg _ hpal => by rw [hostOp, hcfg, hpal]

end Sys2Proof.Machine
end

section
/-! PROOFS. 20_memory.md: the frame of a store (R65, R120), the payload read (R64, R73), and the host's accesses to cells that
do not exist (R66, R67, R70; log 25). -/

namespace Sys2Proof.Machine

/-- A store command touches its one cell, or none at all if the cell is not legal (R98). -/
theorem runCommand_planStore_frame {w : CommandWord} {d i : Nat} {v : Word} {s t : State}
    (h : runCommand w (planStore s.cfg d i v) s = .next t) :
    Frame (fun d' i' => d' = d ∧ i' = i) NoEndpoint s t ∧ LatchesKept s t ∧ t.failAcc = false := by
  obtain ⟨-, rfl⟩ := runCommand_next h
  by_cases hin : InWindow s.cfg d i
  · rw [planStore_legal hin]
    obtain ⟨-, -, -, hlatch, hfail, hframe⟩ := store_run w d i v s
    exact ⟨hframe, hlatch, hfail⟩
  · rw [planStore_illegal hin]
    obtain ⟨hframe, hlatch, hfail, -⟩ := raise_frame (fun d' i' => d' = d ∧ i' = i) NoEndpoint w .illegal s
    exact ⟨hframe, hlatch, hfail⟩

/-- Settles O16: each of the four meanings is `runCommand` of a `planStore`. -/
theorem storeCommandsTouchOneCell : Obligations.StoreCommandsTouchOneCell := fun _ _ =>
  ⟨fun _ _ h => runCommand_planStore_frame h, fun _ _ _ h => runCommand_planStore_frame h,
    fun _ h => runCommand_planStore_frame h, fun _ h => runCommand_planStore_frame h⟩

/-- Settles O53: the step is `takePayload` after one gap. -/
theorem payloadReadClearsReadable : Obligations.PayloadReadClearsReadable := by
  intro s d rest hr hport htodo
  refine ⟨_, payloadOf s.cfg d ((envGap s).endpoint d).count, step_hostOp hr hport htodo,
    takePayload_endpoint_self d _, fun d' hd' => takePayload_endpoint_ne _ hd', rfl, rfl, payloadOf_length _ _ _, ?_,
    takePayload_cells d _, ?_⟩
  · rw [takePayload_host]
    simp
  · exact (envGap_port s).trans hport

/-- An action that stops at a cell that is not legal stops the step, since no gap changes the configuration. -/
theorem step_faults_outside {s : State} {op : HostOp} {rest : List HostOp} {d i : Nat} (hr : Ready s)
    (hport : s.port = none) (htodo : s.host.todo = op :: rest) (hout : ¬ InWindow s.cfg d i)
    (hop : ∀ t, t.cfg = s.cfg → ¬ cellLegal t.cfg d i = true → hostOp op t = .fault (.hostAccessOutsideWindow d i)) :
    step s = .fault (.hostAccessOutsideWindow d i) := by
  rw [step_hostOp hr hport htodo]
  refine hop _ (envGap_cfg s) ?_
  rwa [withHost_cfg, envGap_cfg, cellLegal_iff]

/-- Settles O60: each of the four actions is one `hostRead` or `hostWrite` of the cell. -/
theorem hostReadOutsideTheWindowFaults : Obligations.HostReadOutsideTheWindowFaults := by
  intro s rest hr hport
  refine ⟨fun d htodo hout => ?_, fun d htodo hout => ?_, fun htodo hout => ?_, fun mask htodo hout => ?_⟩ <;>
    refine step_faults_outside hr hport htodo hout fun t hcfg hl => ?_ <;> rw [hostOp, hcfg]
  · exact hostRead_illegal hl
  · exact hostRead_illegal hl
  · exact hostRead_illegal hl
  · exact hostWrite_illegal hl

end Sys2Proof.Machine
end

section
/-! PROOFS. 30_encoding.md: decoder and encoder are inverse, and the rows and fields that follow (R91 to R96). -/

namespace Sys2Proof

/-! ### A word by its fields (R91, R93) -/

/-- A word is a packed word exactly when its five fields are the packed ones. -/
theorem pack_eq_iff {w : CommandWord} {opc sel idx rsv : Byte} {data : Word} : pack opc sel idx rsv data = w ↔
    fieldOpc w = opc ∧ fieldSel w = sel ∧ fieldIdx w = idx ∧ fieldRsv w = rsv ∧ fieldData w = data := by
  conv_lhs => rw [eq_comm, ← pack_fields w]
  exact pack_inj

/-- A word agrees with a packed word under a packed mask exactly when its fields do. -/
theorem and_pack_eq_iff {w : CommandWord} {m1 m2 m3 m4 a b c d : Byte} {m5 e : Word} :
    w &&& pack m1 m2 m3 m4 m5 = pack a b c d e ↔ fieldOpc w &&& m1 = a ∧ fieldSel w &&& m2 = b ∧
      fieldIdx w &&& m3 = c ∧ fieldRsv w &&& m4 = d ∧ fieldData w &&& m5 = e := by
  conv_lhs => rw [← pack_fields w, pack_and]
  exact pack_inj

/-- DATA of SETLEDPERCENT from its parts, the upper half being 0. -/
theorem append_percent_eq_data {w : CommandWord} (h : fieldHigh16 w = 0) :
    (0 : BitVec 16) ++ fieldPercent w = fieldData w := by
  rw [← h]
  exact BitVec.extractLsb'_append_extractLsb'_eq_extractLsb' rfl

/-- DATA of SETPALETTE from its parts, the top byte being 0. -/
theorem append_palette_eq_data {w : CommandWord} (h : fieldHigh8 w = 0) :
    (0 : Byte) ++ fieldR w ++ fieldG w ++ fieldB w = fieldData w := by
  rw [← h]
  calc (fieldHigh8 w ++ fieldR w ++ fieldG w ++ fieldB w : Word)
    _ = w.extractLsb' 16 16 ++ fieldG w ++ fieldB w :=
      congrArg (· ++ fieldG w ++ fieldB w) (BitVec.extractLsb'_append_extractLsb'_eq_extractLsb' rfl)
    _ = w.extractLsb' 8 24 ++ fieldB w :=
      congrArg (· ++ fieldB w) (BitVec.extractLsb'_append_extractLsb'_eq_extractLsb' rfl)
    _ = fieldData w := BitVec.extractLsb'_append_extractLsb'_eq_extractLsb' rfl

theorem fieldRsv_of_decode {w : CommandWord} {i : Instr} (h : decode w = .ok i) : fieldRsv w = 0 := by
  unfold decode at h
  split at h
  · split at h
    · next hrsv => exact eq_of_beq hrsv
    · cases h
  · cases h

/-! ### Decoder and encoder (R96) -/

/-- The fields a row reads are its operands and the fields it requires to be 0 are 0, so the word is that of its command.
The cases are the rows in the order of `decodeFormat`. -/
theorem encode_of_decodeFormat {w : CommandWord} {i : Instr} (hrsv : fieldRsv w = 0) (h : decodeFormat w = .ok i) :
    encode i = w := by
  have hopc := fieldOpc_of_decodeFormat h
  unfold decodeFormat at h
  split at h
  case h_2 =>
    cases h
    exact pack_eq_iff.2 ⟨by rwa [encode, fieldOpc_pack] at hopc, rfl, rfl, hrsv, rfl⟩
  case h_11 => cases h
  all_goals
    obtain ⟨hzero, rfl⟩ := whenZero_eq_ok.1 h
    simp only [Bool.and_eq_true, beq_iff_eq] at hzero
    rw [encode, fieldOpc_pack] at hopc
  case h_1 => exact pack_eq_iff.2 ⟨hopc, rfl, hzero, hrsv, rfl⟩
  case h_5 => exact pack_eq_iff.2 ⟨hopc, rfl, rfl, hrsv, (append_percent_eq_data hzero).symm⟩
  case h_6 => exact pack_eq_iff.2 ⟨hopc, rfl, hzero.1, hrsv, (append_palette_eq_data hzero.2).symm⟩
  case h_7 => exact pack_eq_iff.2 ⟨hopc, hzero.1.1, hzero.1.2, hrsv, hzero.2⟩
  all_goals exact pack_eq_iff.2 ⟨hopc, rfl, hzero.1, hrsv, hzero.2⟩

/-- A word decodes to a command exactly when it is the command's word (R96). -/
theorem decode_eq_ok_iff {w : CommandWord} {i : Instr} : decode w = .ok i ↔ encode i = w := by
  refine ⟨fun h => encode_of_decodeFormat (fieldRsv_of_decode h) (decodeFormat_of_decode h), ?_⟩
  rintro rfl
  exact decode_encode i

/-- Settles O1, by unpacking the fields of each command's word. -/
theorem decodeOfEncodeIsTheCommand : Obligations.DecodeOfEncodeIsTheCommand := decode_encode

/-- Settles O2: every field of the word is an operand of its command or required to be what `encode` puts there. -/
theorem encodeOfDecodeIsTheWord : Obligations.EncodeOfDecodeIsTheWord := fun _ _ => decode_eq_ok_iff.1

/-! ### The rows by match and mask (R95) -/

/-- A word that is 0 under a mask is 0 in the bits the mask selects. -/
theorem extractLsb'_eq_zero_of_and {x m : Word} {lo len : Nat} (h : x &&& m = 0)
    (hm : m.extractLsb' lo len = BitVec.allOnes len) : x.extractLsb' lo len = 0 := by
  calc x.extractLsb' lo len
    _ = (x &&& m).extractLsb' lo len := by rw [BitVec.extractLsb'_and, hm, BitVec.and_allOnes]
    _ = 0 := by rw [h]; exact BitVec.extractLsb'_zero

theorem data_eq_append_percent_iff {w : CommandWord} :
    fieldData w &&& 0xFFFF0000 = 0 ↔ ∃ percent : Percent, fieldData w = (0 : BitVec 16) ++ percent := by
  refine ⟨fun h => ⟨fieldPercent w, (append_percent_eq_data ?_).symm⟩, ?_⟩
  · rw [(data_parts w).1]
    exact extractLsb'_eq_zero_of_and h (by decide)
  · rintro ⟨percent, h⟩
    rw [h]
    exact Laws.SelectsItsRow.percent_masked percent

theorem data_eq_append_palette_iff {w : CommandWord} :
    fieldData w &&& 0xFF000000 = 0 ↔ ∃ r g b : Byte, fieldData w = (0 : Byte) ++ r ++ g ++ b := by
  refine ⟨fun h => ⟨fieldR w, fieldG w, fieldB w, (append_palette_eq_data ?_).symm⟩, ?_⟩
  · rw [(data_parts w).2.1]
    exact extractLsb'_eq_zero_of_and h (by decide)
  · rintro ⟨r, g, b, h⟩
    rw [h]
    exact Laws.SelectsItsRow.palette_masked r g b

/-- A row's match under its mask, field by field: OPC and RSV are compared whole, the other fields under their masks. -/
theorem row_iff {w m n : CommandWord} (opc m2 m3 : Byte) (m5 : Word)
    (hm : pack (BitVec.allOnes 8) m2 m3 (BitVec.allOnes 8) m5 = m) (hn : pack opc 0 0 0 0 = n) :
    w &&& m = n ↔ fieldOpc w = opc ∧ fieldSel w &&& m2 = 0 ∧ fieldIdx w &&& m3 = 0 ∧ fieldRsv w = 0 ∧
      fieldData w &&& m5 = 0 := by
  rw [← hm, ← hn, and_pack_eq_iff, BitVec.and_allOnes, BitVec.and_allOnes]

/-- The rows of format D (R92). -/
theorem rowD_iff {w n : CommandWord} (opc : Byte) (hn : pack opc 0 0 0 0 = n) :
    w &&& 0xFF00FFFFFFFFFFFF#64 = n ↔ ∃ dev, pack opc dev 0 0 0 = w := by
  rw [row_iff opc 0 (BitVec.allOnes 8) (BitVec.allOnes 32) (by decide) hn]
  simp only [BitVec.and_allOnes]
  simp [pack_eq_iff]

/-- Settles O3: both sides are conditions on the five fields. -/
theorem decodeSelectsRowsByMatchAndMask : Obligations.DecodeSelectsRowsByMatchAndMask := by
  intro w
  simp only [decode_eq_ok_iff]
  refine ⟨?_, ?_, rowD_iff 0x03 (by decide), rowD_iff 0x04 (by decide), ?_, ?_, ?_, rowD_iff 0x20 (by decide),
    rowD_iff 0x21 (by decide), rowD_iff 0x22 (by decide)⟩
  · rw [row_iff 0x01 0 (BitVec.allOnes 8) 0 (by decide) (by decide), BitVec.and_allOnes]
    simp [encode, pack_eq_iff]
  · rw [row_iff 0x02 0 0 0 (by decide) (by decide)]
    simp [encode, pack_eq_iff]
  · rw [row_iff 0x10 0 0 0xFFFF0000 (by decide) (by decide), data_eq_append_percent_iff]
    simp [encode, pack_eq_iff]
  · rw [row_iff 0x11 0 (BitVec.allOnes 8) 0xFF000000 (by decide) (by decide), BitVec.and_allOnes, data_eq_append_palette_iff]
    simp [encode, pack_eq_iff]
  · rw [row_iff 0x12 (BitVec.allOnes 8) (BitVec.allOnes 8) (BitVec.allOnes 32) (by decide) (by decide)]
    simp only [BitVec.and_allOnes]
    simp [encode, pack_eq_iff]

/-! ### Operands and fields (R94) -/

theorem fieldPercent_encode (silk tag : Byte) (percent : Percent) :
    fieldPercent (encode (.setLedPercent silk tag percent)) = percent := by
  simp only [data_parts, encode, fieldData_pack, percent_data]

theorem fields_encode_setPalette (silk r g b : Byte) : fieldR (encode (.setPalette silk r g b)) = r ∧
    fieldG (encode (.setPalette silk r g b)) = g ∧ fieldB (encode (.setPalette silk r g b)) = b := by
  simp only [data_parts, encode, fieldData_pack, palette_data, and_self]

theorem pctOf_toNat (x : Byte) : (Machine.pctOf x).toNat = x.toNat * 1000 / 255 := by
  have hx := x.isLt
  rw [Machine.pctOf, percentScale, paletteMax, BitVec.toNat_ofNat]
  omega

theorem dutyOf_toNat (p : Percent) (M : Word) : (Machine.dutyOf p M).toNat = p.toNat * M.toNat / 1000 % 2 ^ 32 := by
  rw [Machine.dutyOf, percentScale, BitVec.toNat_ofNat]

/-- Settles O4: a word that decodes is the packed word of its command (O2), and unpacking it gives the operands. -/
theorem decodeReadsOperandsFromTheirFields : Obligations.DecodeReadsOperandsFromTheirFields := by
  intro w
  simp only [decode_eq_ok_iff]
  refine ⟨?_, ?_, ?_, ?_, ?_, fun M => dutyOf_toNat _ M, fun lo => pctOf_toNat _⟩
  · rintro dev count rfl
    exact ⟨(fieldSel_pack ..).symm, (fieldData_pack ..).symm⟩
  · rintro dev count idx rfl
    exact ⟨(fieldSel_pack ..).symm, (fieldData_pack ..).symm, (fieldIdx_pack ..).symm⟩
  · rintro dev (rfl | rfl | rfl | rfl | rfl) <;> exact (fieldSel_pack ..).symm
  · rintro silk tag percent rfl
    exact ⟨(fieldSel_pack ..).symm, (fieldIdx_pack ..).symm, (fieldPercent_encode ..).symm⟩
  · rintro silk r g b rfl
    obtain ⟨hr, hg, hb⟩ := fields_encode_setPalette silk r g b
    exact ⟨(fieldSel_pack ..).symm, hr.symm, hg.symm, hb.symm⟩

/-- Settles O5, by evaluating the decoder on the ten words. -/
theorem vectorWordsDecodeAsListed : Obligations.VectorWordsDecodeAsListed := by
  unfold Obligations.VectorWordsDecodeAsListed
  decide

end Sys2Proof
end

section
/-! PROOFS. 30_encoding.md: illegal words and failed checks (R97, R98), and the code a command completes with (R201 to R203). -/

namespace Sys2Proof.Machine

theorem runPortWord_of_not_decode {w : CommandWord} (h : ∀ i, decode w ≠ .ok i) (s : State) :
    runPortWord w s = runIllegalWord w s := by
  unfold runPortWord
  split
  · next i hi => exact absurd hi (h i)
  · rfl

/-- Settles O7: the step runs a `raise`, which is acceptance and completion alone. -/
theorem wordThatSelectsNoRowIsIllegal : Obligations.WordThatSelectsNoRowIsIllegal := by
  rintro s w ⟨hw, hbusy⟩ hport hnone
  have hstep : step s = runPortWord w { s with port := none } := by simp [step, hw, hbusy, hport]
  rw [hstep, runPortWord_of_not_decode hnone]
  exact runCommand_ready (s := { s with port := none }) ⟨hw, hbusy⟩

/-! ### The checks of R98 -/

theorem configureCells_legal_iff {c : Config} {d : Nat} :
    [c.gpioTri1Off, c.gpioTri2Off, c.gpioIerOff, c.gpioGierOff].all (cellLegal c d) = true ↔
      InWindow c d c.gpioTri1Off ∧ InWindow c d c.gpioTri2Off ∧ InWindow c d c.gpioIerOff ∧
        InWindow c d c.gpioGierOff := by
  simp only [List.all_cons, List.all_nil, Bool.and_true, Bool.and_eq_true, cellLegal_iff]

theorem handleLegal_iff {c : Config} {d : Nat} : handleLegal c d = true ↔ d < c.nDev ∧ c.hasHandle d = true := by
  simp [handleLegal]

theorem planConfigureDevice_illegal {c : Config} {dev : Byte} (h : FailsChecks c (.configureDevice dev)) :
    planConfigureDevice c dev = .raise .illegal := by
  unfold planConfigureDevice
  split
  · rfl
  · exact if_neg (h ∘ configureCells_legal_iff.1)

/-- A device that passes the checks exists, and its plan is the four writes. -/
theorem planConfigureDevice_legal {c : Config} {dev : Byte} (h : ¬ FailsChecks c (.configureDevice dev)) :
    ∃ D, planConfigureDevice c dev =
      .run { planOk (configureWrites c dev.toNat D) with arms := some dev.toNat } := by
  have hin := not_not.1 h
  have hdev : dev.toNat < c.dev.length := hin.1.1
  refine ⟨c.dev[dev.toNat], ?_⟩
  simp only [planConfigureDevice, List.getElem?_eq_getElem hdev]
  exact if_pos (configureCells_legal_iff.2 hin)

/-- A command whose check fails raises ILLEGAL before its first micro-step (R98). -/
theorem planOf_of_failsChecks {c : Config} {i : Instr} (h : FailsChecks c i) : planOf c i = .raise .illegal := by
  cases i with
  | setPeriod dev count => exact planStore_illegal h
  | setDuty dev count idx => exact planStore_illegal h
  | enable dev => exact planStore_illegal h
  | disable dev => exact planStore_illegal h
  | setLedPercent silk tag percent => exact h.elim
  | setPalette silk r g b => exact h.elim
  | allLedsOff => exact h.elim
  | configureDevice dev => exact planConfigureDevice_illegal h
  | reacknowledge dev => exact if_neg (h ∘ cellLegal_iff.1)
  | ackNotification dev => exact if_neg (h ∘ handleLegal_iff.1)

/-- Settles O8: the plan is a `raise`, which is acceptance and completion alone. -/
theorem failedCheckIsIllegalWithNoAccess : Obligations.FailedCheckIsIllegalWithNoAccess := by
  intro s i hr hfail
  rw [exec_eq, runCommand_ready hr, planOf_of_failsChecks hfail]
  rfl

/-! ### The code of a completed command (R201 to R203) -/

/-- A sub-call of the plan fails (R148). -/
def Plan.fails (p : Plan) : Bool := p.steps.any (·.failedBefore) || p.failedAfter

/-- The code a plan ends with. -/
def Plan.code (p : Plan) : ResultCode :=
  match p.ending with
  | .ok => .ok
  | .byFailAcc => if p.fails then .fail else .ok

/-- The code a command completes with: that of its `raise`, or of its plan. -/
def Start.code : Start → ResultCode
  | .raise c => c
  | .run p => p.code

theorem Plan.code_of_ok {p : Plan} (h : p.ending = .ok) : p.code = .ok := by rw [Plan.code, h]

theorem Plan.code_of_byFailAcc {p : Plan} (h : p.ending = .byFailAcc) : p.code = if p.fails then .fail else .ok := by
  rw [Plan.code, h]

/-- Acceptance, run and completion leave the block's registers with the command's code (R25, R26, R201). -/
theorem runStart_completed (w : CommandWord) (st : Start) (s : State) :
    Completed w st.code.bits s (runStart st (accept w s)) := by
  cases st with
  | raise c => exact raise_completed w c s
  | run p =>
    obtain ⟨hcmd, hbusy, hk, hcp, -, hresult, -⟩ := runStart_block w p s
    refine ⟨hcmd, hbusy, hk, hresult.trans ?_, hcp⟩
    cases hend : p.ending with
    | ok => rw [Start.code, Plan.code_of_ok hend]; rfl
    | byFailAcc =>
      rw [Start.code, Plan.code_of_byFailAcc hend]
      exact (apply_ite ResultCode.bits (p.fails = true) .fail .ok).symm

theorem exec_completed {s : State} (hr : Ready s) (i : Instr) :
    ∃ t, exec i s = .next t ∧ Completed (encode i) (planOf s.cfg i).code.bits s t :=
  ⟨_, by rw [exec_eq, runCommand_ready hr], runStart_completed _ _ s⟩

theorem missesATuple_setPalette {c : Config} {silk r g b : Byte} : MissesATuple c (.setPalette silk r g b) ↔
    ((lookup c silk tagRed).isNone || (lookup c silk tagGreen).isNone || (lookup c silk tagBlue).isNone) = true := by
  simp [MissesATuple, or_assoc]

/-- SETPALETTE ends with FAIL exactly when one of its three sub-calls finds no tuple (R148). -/
theorem planSetPalette_code (c : Config) (silk r g b : Byte) : (planSetPalette c silk r g b).code =
    if (lookup c silk tagRed).isNone || (lookup c silk tagGreen).isNone || (lookup c silk tagBlue).isNone then .fail
    else .ok := by
  rw [planSetPalette, Start.code, Plan.code_of_byFailAcc (subCallPlan_end _ _).1, Plan.fails, subCallPlan_failed]
  simp [paletteSubCall, Bool.or_assoc]

/-- Without a tuple for a pair, a command that passes its checks ends with FAIL (R202). -/
theorem planOf_code_of_missesATuple {c : Config} {i : Instr} (h : MissesATuple c i) : (planOf c i).code = .fail := by
  cases i with
  | setLedPercent silk tag percent =>
    have hnone : lookup c silk tag = none := h
    simp [planOf, planSetLedPercent, hnone, Start.code]
  | setPalette silk r g b => exact (planSetPalette_code c silk r g b).trans (if_pos (missesATuple_setPalette.1 h))
  | _ => exact h.elim

/-- A command that passes its checks and finds its tuples ends with OK (R201). -/
theorem planOf_code_ok {c : Config} {i : Instr} (h : ¬ FailsChecks c i) (ht : ¬ MissesATuple c i) :
    (planOf c i).code = .ok := by
  cases i with
  | setPeriod dev count => exact congrArg Start.code (planStore_legal (not_not.1 h))
  | setDuty dev count idx => exact congrArg Start.code (planStore_legal (not_not.1 h))
  | enable dev => exact congrArg Start.code (planStore_legal (not_not.1 h))
  | disable dev => exact congrArg Start.code (planStore_legal (not_not.1 h))
  | setLedPercent silk tag percent =>
    obtain ⟨ch, hch⟩ := Option.ne_none_iff_exists'.1 ht
    simp only [planOf, planSetLedPercent, hch]
    rfl
  | setPalette silk r g b => exact (planSetPalette_code c silk r g b).trans (if_neg (ht ∘ missesATuple_setPalette.2))
  | allLedsOff => rfl
  | configureDevice dev =>
    obtain ⟨D, hplan⟩ := planConfigureDevice_legal h
    exact congrArg Start.code hplan
  | reacknowledge dev => exact congrArg Start.code (if_pos (cellLegal_iff.2 (not_not.1 h)))
  | ackNotification dev => exact congrArg Start.code (if_pos (handleLegal_iff.2 (not_not.1 h)))

/-- Settles O9: a ready block completes every command, with the code of the command's plan. -/
theorem everyCommandCompletesWithTheCodeOfItsCause : Obligations.EveryCommandCompletesWithTheCodeOfItsCause := by
  intro s i hr
  obtain ⟨t, hexec, hdone⟩ := exec_completed hr i
  refine ⟨t, hexec, fun hf => ?_, fun _ hm => ?_, fun hf hm => ?_⟩
  · rwa [planOf_of_failsChecks hf] at hdone
  · rwa [planOf_code_of_missesATuple hm] at hdone
  · rwa [planOf_code_ok hf hm] at hdone

end Sys2Proof.Machine
end

section
/-! PROOFS. 40_pwm_controller.md: what the one store of SETPERIOD, SETDUTY, ENABLE and DISABLE leaves (R120 to R127). -/

namespace Sys2Proof.Machine

/-- A store command with a legal cell completes with OK after one bus write; the register at the cell reacts to the write, and
a plain register of a PWM window then holds the word stored. -/
theorem runCommand_planStore_completes (w : CommandWord) {d i : Nat} (v : Word) {s : State} (hr : Ready s)
    (hin : InWindow s.cfg d i)
    (hplain : isPwm s.cfg d = true → regAt s.cfg d i ≠ .isr ∧ regAt s.cfg d i ≠ .unknown) :
    ∃ t, runCommand w (planStore s.cfg d i v) s = .next t ∧ Completed w 0 s t ∧ t.bus = s.bus ++ [.write d i v] ∧
      t.cell d i = written (regAt s.cfg d i) ((envGap s).cell d i) v ∧
      (isPwm s.cfg d = true → t.cell d i = v) := by
  obtain ⟨hdone, hbus, hcell, -, -, -⟩ := store_run w d i v s
  refine ⟨_, by rw [runCommand_ready hr, planStore_legal hin], hdone, hbus, hcell, fun hpwm => ?_⟩
  obtain ⟨hisr, hunknown⟩ := hplain hpwm
  rw [hcell, written_plain hisr hunknown]

/-- A store to the control register of a PWM window that answers a next state: the register holds the word stored, whatever
it held before, and the write is the only access. -/
theorem runCommand_planStore_ctrl_next {w : CommandWord} {d : Nat} {v : Word} {s t : State}
    (hin : InWindow s.cfg d s.cfg.pwmCtrlOff) (hpwm : isPwm s.cfg d = true)
    (h : runCommand w (planStore s.cfg d s.cfg.pwmCtrlOff v) s = .next t) :
    t.cfg = s.cfg ∧ t.cell d s.cfg.pwmCtrlOff = v ∧ t.bus = s.bus ++ [.write d s.cfg.pwmCtrlOff v] := by
  obtain ⟨hframe, -, -⟩ := runCommand_planStore_frame h
  obtain ⟨t', ht', -, hbus, -, hcell⟩ :=
    runCommand_planStore_completes w v (runCommand_next h).1 hin fun hp => pwm_plain hp (.inl rfl)
  obtain rfl : t = t' := by simpa [h] using ht'
  exact ⟨hframe.cfg, hcell hpwm, hbus⟩

/-- The word of one bit has that bit and no other (R125). -/
theorem getLsbD_oneBit (b : Fin 32) (n : Nat) : (oneBit b).getLsbD n = decide (n = b.val) := by
  have hpow : oneBit b = BitVec.twoPow 32 b.val := rfl
  rw [hpow, BitVec.getLsbD_twoPow, decide_eq_true b.isLt, Bool.true_and]
  exact decide_eq_decide.2 eq_comm

/-- Settles O11: SETPERIOD is a store command, and the period cell of a PWM window is a plain register. -/
theorem setPeriodStoresTheCount : Obligations.SetPeriodStoresTheCount := fun _ _ count hr hin =>
  runCommand_planStore_completes _ count hr hin fun hpwm => pwm_plain hpwm (.inr (.inl rfl))

/-- Settles O12: SETDUTY is a store command, and each duty cell of a PWM window is a plain register. -/
theorem setDutyStoresTheCount : Obligations.SetDutyStoresTheCount := fun _ _ count idx hr hin =>
  runCommand_planStore_completes _ count hr hin (duty_plain idx)

/-- Settles O13: ENABLE is a store command, and the control register of a PWM window then holds the word of the run bit. -/
theorem enableStoresTheRunBitAlone : Obligations.EnableStoresTheRunBitAlone := by
  intro s dev hr hin
  obtain ⟨t, hexec, hdone, hbus, hreact, hcell⟩ :=
    runCommand_planStore_completes (encode (.enable dev)) (runWord s.cfg) hr hin fun hpwm => pwm_plain hpwm (.inl rfl)
  refine ⟨t, hexec, hdone, hbus, hreact, fun hpwm n => ?_⟩
  rw [hcell hpwm, runWord, getLsbD_oneBit]

/-- Settles O14: DISABLE is a store command, and the control register of a PWM window is a plain register. -/
theorem disableStoresZero : Obligations.DisableStoresZero := fun _ _ hr hin =>
  runCommand_planStore_completes _ 0 hr hin fun hpwm => pwm_plain hpwm (.inl rfl)

/-- Settles O15: each command leaves in the control register the word it stores, which no earlier contents enter; the second
ENABLE stores the same word again, since the first keeps the configuration. -/
theorem enableAndDisableStoreAndDoNotInvert : Obligations.EnableAndDisableStoreAndDoNotInvert := by
  intro s t u dev hin hpwm
  refine ⟨fun ht hu => ?_, fun ht => ?_⟩
  · obtain ⟨hcfg, htcell, htbus⟩ := runCommand_planStore_ctrl_next hin hpwm ht
    obtain ⟨-, hucell, hubus⟩ := runCommand_planStore_ctrl_next (hcfg ▸ hin) (hcfg ▸ hpwm) hu
    rw [hcfg] at hucell hubus
    have hrun : (runWord s.cfg).getLsbD s.cfg.pwmRunBit.val = true := by rw [runWord, getLsbD_oneBit, decide_eq_true rfl]
    refine ⟨by rw [htcell, hrun], by rw [hucell, hrun], hucell.trans htcell.symm, ?_⟩
    rw [hubus, htbus, List.append_assoc]
    rfl
  · obtain ⟨-, hcell, hbus⟩ := runCommand_planStore_ctrl_next hin hpwm ht
    exact ⟨by rw [hcell]; exact BitVec.getLsbD_zero, hbus⟩

end Sys2Proof.Machine
end

section
/-! PROOFS. 41_color_model.md: the two formulas and the search of the channel table (R140 to R147, R150). -/

namespace Sys2Proof.Machine

/-! ### The palette component (R140, R147) -/

theorem pctOf_toNat_le (x : Byte) : (pctOf x).toNat ≤ 1000 := by
  have hx := x.isLt
  rw [pctOf_toNat]
  omega

/-- One more in the component is 1000/255 more before truncation, which lies between 3 and 4. -/
theorem pctOf_add_one {x : Byte} (hx : x ≠ 255) :
    (pctOf (x + 1)).toNat = (pctOf x).toNat + 3 ∨ (pctOf (x + 1)).toNat = (pctOf x).toNat + 4 := by
  have hsucc : (x + 1).toNat = x.toNat + 1 := by bv_omega
  rw [pctOf_toNat, pctOf_toNat, hsucc]
  omega

/-- Settles O17: the listed values are evaluated; the bound and the growth are those of the truncated quotient. -/
theorem pctOfGrowsFromZeroToThousand : Obligations.PctOfGrowsFromZeroToThousand :=
  ⟨by decide, fun x => ⟨pctOf_toNat x, pctOf_toNat_le x⟩, fun _ => pctOf_add_one⟩

/-! ### The duty (R140, R144) -/

theorem share_le {p : Nat} (hp : p ≤ 1000) (M : Nat) : p * M / 1000 ≤ M :=
  Nat.div_le_of_le_mul (Nat.mul_le_mul_right M hp)

/-- A percent up to 1000 takes a share of `M`, which 32 bits hold. -/
theorem dutyOf_toNat_of_le {p : Percent} (hp : p.toNat ≤ 1000) (M : Word) :
    (dutyOf p M).toNat = p.toNat * M.toNat / 1000 := by
  rw [dutyOf_toNat, Nat.mod_eq_of_lt ((share_le hp M.toNat).trans_lt M.isLt)]

theorem dutyOf_zero (M : Word) : dutyOf 0 M = 0 := by
  simp [dutyOf]

theorem dutyOf_thousand (M : Word) : dutyOf 1000 M = M := by
  have hscale : 1000 * M.toNat / 1000 = M.toNat := Nat.mul_div_cancel_left _ (by decide)
  exact BitVec.eq_of_toNat_eq ((dutyOf_toNat_of_le le_rfl M).trans hscale)

/-- A product below PERCENT_SCALE truncates to 0. -/
theorem dutyOf_eq_zero {p : Percent} {M : Word} (h : p.toNat * M.toNat < 1000) : dutyOf p M = 0 := by
  rw [dutyOf, percentScale, Nat.div_eq_of_lt h]
  rfl

/-- Settles O18: up to 1000 the duty is a quotient of natural numbers, which is monotone in both factors. -/
theorem dutyOfIsTheTruncatedShareOfMaxDuty : Obligations.DutyOfIsTheTruncatedShareOfMaxDuty := by
  intro p q M N hp hq
  have hone (hM : M.toNat < 1000) : dutyOf 1 M = 0 := dutyOf_eq_zero (by simpa using hM)
  refine ⟨dutyOf_toNat_of_le hp M, ?_, dutyOf_zero M, dutyOf_thousand M, fun hpq => ?_, fun hMN => ?_,
    fun hM => ⟨(hone hM).trans (dutyOf_zero M).symm, hone hM⟩, ?_⟩
  · rw [dutyOf_toNat_of_le hp]
    exact share_le hp M.toNat
  · rw [dutyOf_toNat_of_le hp, dutyOf_toNat_of_le hq]
    exact Nat.div_le_div_right (Nat.mul_le_mul_right _ hpq)
  · rw [dutyOf_toNat_of_le hp, dutyOf_toNat_of_le hp]
    exact Nat.div_le_div_right (Nat.mul_le_mul_left _ hMN)
  · rintro rfl hlt
    exact dutyOf_eq_zero (by simpa using hlt)

/-- Settles O19: the formulas are those of the model in natural numbers; the listed values are evaluated. -/
theorem formulasAreExactBeforeReduction : Obligations.FormulasAreExactBeforeReduction := by
  refine ⟨fun p x M => ⟨pctOf_toNat x, dutyOf_toNat p M, fun hp => dutyOf_toNat_of_le hp M, ?_⟩, by decide⟩
  rw [dutyOf_toNat_of_le (pctOf_toNat_le x), pctOf_toNat]

/-! ### The search (R141) -/

/-- Settles O20: `lookup` is `List.find?` on the pair of a tuple, which answers the element with the least index. -/
theorem lookupFindsTheFirstMatch : Obligations.LookupFindsTheFirstMatch := by
  intro c silk tag
  refine ⟨fun ch => ?_, ?_⟩
  · rw [lookup, List.find?_eq_some_iff_getElem]
    constructor
    · rintro ⟨hpair, k, hk, rfl, hfirst⟩
      obtain ⟨hsilk, htag⟩ : c.chan[k].silkId = silk ∧ c.chan[k].colorTag = tag := by simpa using hpair
      refine ⟨k, List.getElem?_eq_getElem hk, hsilk, htag, fun j hj other hother => ?_⟩
      obtain ⟨_, rfl⟩ := List.getElem?_eq_some_iff.1 hother
      simpa [imp_iff_not_or] using hfirst j hj
    · rintro ⟨k, hk, hsilk, htag, hfirst⟩
      obtain ⟨hlt, rfl⟩ := List.getElem?_eq_some_iff.1 hk
      refine ⟨by simp [hsilk, htag], k, hlt, rfl, fun j hj => ?_⟩
      simpa [imp_iff_not_or] using hfirst j hj _ (List.getElem?_eq_getElem (hj.trans hlt))
  · simp [lookup]

end Sys2Proof.Machine
end

section
/-! PROOFS. 41_color_model.md: what a command leaves whose micro-steps are all writes of constants, as those of SETPALETTE and
ALLLEDSOFF are (R148, R152). -/

namespace Sys2Proof.Machine

/-- Every operation is a write of a constant: no status read, write-back, endpoint write or delay. -/
def OnlyStores (ops : List MicroOp) : Prop := ∀ op ∈ ops, ∃ d i v, op = .write d i v

theorem planOk_ops (ops : List MicroOp) : (planOk ops).steps.map (·.op) = ops := by
  simp [planOk, Function.comp_def]

/-! ### What an accepted command leaves in a plain register -/

section
variable {ms : List MicroStep} {ops : List MicroOp} (hms : ms.map (·.op) = ops)
include hms

theorem op_mem_of_map_op {m : MicroStep} (hm : m ∈ ms) : m.op ∈ ops := hms ▸ List.mem_map_of_mem hm

theorem exists_step_of_map_op {op : MicroOp} (h : op ∈ ops) : ∃ m ∈ ms, m.op = op := List.mem_map.1 (hms ▸ h)

variable (hops : OnlyStores ops)
include hops

theorem op_eq_write_of_onlyStores {m : MicroStep} (hm : m ∈ ms) : ∃ d i v, m.op = .write d i v :=
  hops _ (op_mem_of_map_op hms hm)

variable {s : State} {d i : Nat} (hplain : regAt s.cfg d i ≠ .isr ∧ regAt s.cfg d i ≠ .unknown) {w : CommandWord}
include hplain

theorem doMicros_onlyStores_cell : (doMicros ms (accept w s)).cell d i = lastStored d i ms (s.cell d i) := by
  refine doMicros_cell_plain ms (accept w s) hplain.1 hplain.2 fun m hm d' hback => ?_
  obtain ⟨_, _, _, hwrite⟩ := op_eq_write_of_onlyStores hms hops hm
  simp [hwrite] at hback

/-- The last word stored to the register stays there. -/
theorem doMicros_onlyStores_cell_last {v : Word} {pre post : List MicroOp} (hsplit : ops = pre ++ .write d i v :: post)
    (hpost : ∀ v', .write d i v' ∉ post) : (doMicros ms (accept w s)).cell d i = v := by
  rw [doMicros_onlyStores_cell hms hops hplain]
  obtain ⟨before, rest, rfl, -, hrest⟩ := List.map_eq_append_iff.1 (hms.trans hsplit)
  obtain ⟨⟨b, op⟩, after, rfl, hop, hafter⟩ := List.map_eq_cons_iff.1 hrest
  obtain rfl : op = .write d i v := hop
  have huntouched : ∀ m ∈ after, ∀ v', m.op ≠ .write d i v' := fun m hm v' h =>
    hpost v' (h ▸ op_mem_of_map_op hafter hm)
  rw [lastStored_append, lastStored_cons, lastStored_untouched huntouched]
  simp [lastStored]

/-- A register that is written with one word alone holds that word. -/
theorem doMicros_onlyStores_cell_const {v : Word} (hconst : ∀ v', .write d i v' ∈ ops → v' = v)
    (hmem : .write d i v ∈ ops) : (doMicros ms (accept w s)).cell d i = v := by
  rw [doMicros_onlyStores_cell hms hops hplain]
  exact lastStored_const (fun m hm v' hop => hconst v' (hop ▸ op_mem_of_map_op hms hm)) _
    (.inr (exists_step_of_map_op hms hmem))

/-- A register that is not written holds what it held. -/
theorem doMicros_onlyStores_cell_untouched (hnot : ∀ v, .write d i v ∉ ops) :
    (doMicros ms (accept w s)).cell d i = s.cell d i := by
  rw [doMicros_onlyStores_cell hms hops hplain]
  exact lastStored_untouched (fun m hm v hop => hnot v (hop ▸ op_mem_of_map_op hms hm)) _

end

/-! ### The whole command -/

section
variable {p : Plan} {ops : List MicroOp} (hp : p.steps.map (·.op) = ops) (hops : OnlyStores ops)
include hp hops

/-- A plan that only stores changes the cells it writes, and no endpoint or latch. -/
theorem runStart_onlyStores_frame (harms : p.arms = none) (w : CommandWord) (s : State) :
    Frame (fun d i => ∃ v, .write d i v ∈ ops) NoEndpoint s (runStart (.run p) (accept w s)) ∧
    LatchesKept s (runStart (.run p) (accept w s)) := by
  obtain ⟨-, -, -, -, -, -, hdevices, hlatches⟩ := runStart_block w p s
  obtain ⟨hisr, hreads⟩ := hlatches fun m hm d hread => by
    obtain ⟨_, _, _, hwrite⟩ := op_eq_write_of_onlyStores hp hops hm
    simp [hwrite] at hread
  refine ⟨(runStart_frame w p s).mono ?_ ?_, hisr, hdevices harms, hreads⟩
  · rintro d i ⟨m, hm, htouch⟩
    obtain ⟨_, _, v, hwrite⟩ := op_eq_write_of_onlyStores hp hops hm
    rw [hwrite] at htouch
    obtain ⟨rfl, rfl⟩ := htouch
    exact ⟨v, hwrite ▸ op_mem_of_map_op hp hm⟩
  · rintro d ⟨m, hm, hnotify⟩
    obtain ⟨_, _, _, hwrite⟩ := op_eq_write_of_onlyStores hp hops hm
    rw [hwrite] at hnotify
    exact hnotify

/-- The record shows the writes of a plan that only stores, in order. -/
theorem runStart_onlyStores_bus (w : CommandWord) (s : State) :
    (runStart (.run p) (accept w s)).bus = s.bus ++ ops.map (·.event s) := by
  rw [← hp, List.map_map]
  refine runStart_bus w p s (·.event s) fun m hm t => ?_
  obtain ⟨_, _, _, hwrite⟩ := op_eq_write_of_onlyStores hp hops hm
  rw [hwrite]
  rfl

end

end Sys2Proof.Machine
end

section
/-! PROOFS. 41_color_model.md: SETLEDPERCENT and SETPALETTE, the duties that the tuples looked up receive (R143 to R149). -/

namespace Sys2Proof.Machine

/-! ### SETLEDPERCENT (R143) -/

/-- With a tuple for the pair SETLEDPERCENT is a store to the tuple's register, which R36 (4) puts inside a window. -/
theorem planSetLedPercent_eq_planStore {c : Config} (hw : c.wellFormed = true) {silk tag : Byte} {ch : Channel}
    (hch : lookup c silk tag = some ch) (percent : Percent) :
    planSetLedPercent c silk tag percent = planStore c (dutySlot c ch) (dutyCell c ch) (dutyOf percent ch.maxDuty) := by
  obtain ⟨-, hin, -, -⟩ := wf_chan hw (lookup_mem hch)
  simp only [planSetLedPercent, hch, planStore_legal hin, dutyWrite]

/-- Settles O21: the command is a store to a plain register of a bank's window. -/
theorem setLedPercentStoresTheDuty : Obligations.SetLedPercentStoresTheDuty := by
  intro s silk tag percent ch hr hch
  obtain ⟨hbank, hin, -, -⟩ := wf_chan hr.1 (lookup_mem hch)
  obtain ⟨-, -, hpwm⟩ := wf_bank hr.1 hbank
  obtain ⟨t, hexec, hdone, hbus, -, hcell⟩ := runCommand_planStore_completes (encode (.setLedPercent silk tag percent))
    (dutyOf percent ch.maxDuty) hr hin (duty_plain ch.channelIndex)
  rw [← planSetLedPercent_eq_planStore hr.1 hch] at hexec
  exact ⟨t, hexec, hdone, hbus, hcell hpwm⟩

/-! ### SETPALETTE (R148, R149) -/

/-- The three colours of a palette with their tags, in the order of the sub-calls (R148). -/
def paletteColours (r g b : Byte) : List (Byte × Byte) := [(tagRed, r), (tagGreen, g), (tagBlue, b)]

/-- The sub-call of one colour. -/
def colourCall (c : Config) (silk : Byte) (q : Byte × Byte) : Option MicroOp := paletteSubCall c silk q.1 q.2

/-- The plan of SETPALETTE. -/
def palettePlan (c : Config) (silk r g b : Byte) : Plan :=
  subCallPlan false ((paletteColours r g b).map (colourCall c silk))

theorem planSetPalette_eq (c : Config) (silk r g b : Byte) :
    planSetPalette c silk r g b = .run (palettePlan c silk r g b) := rfl

theorem colourCall_eq_some {c : Config} {silk : Byte} {q : Byte × Byte} {op : MicroOp} : colourCall c silk q = some op ↔
    ∃ ch, lookup c silk q.1 = some ch ∧ dutyWrite c ch (dutyOf (pctOf q.2) ch.maxDuty) = op :=
  Option.map_eq_some_iff

/-- SETPALETTE writes the colours found, in order. -/
theorem palettePlan_ops (c : Config) (silk r g b : Byte) :
    (palettePlan c silk r g b).steps.map (·.op) = (paletteColours r g b).filterMap (colourCall c silk) := by
  rw [palettePlan, subCallPlan_ops, List.filterMap_map, Function.id_comp]

theorem colourCalls_onlyStores (c : Config) (silk : Byte) (colours : List (Byte × Byte)) :
    OnlyStores (colours.filterMap (colourCall c silk)) := by
  intro op hop
  obtain ⟨q, -, hq⟩ := List.mem_filterMap.1 hop
  obtain ⟨ch, -, rfl⟩ := colourCall_eq_some.1 hq
  exact ⟨_, _, _, rfl⟩

theorem palettePlan_fails_iff {c : Config} {silk r g b : Byte} :
    (palettePlan c silk r g b).fails = true ↔ MissesATuple c (.setPalette silk r g b) := by
  rw [Plan.fails, palettePlan, subCallPlan_failed, missesATuple_setPalette]
  simp [paletteColours, colourCall, paletteSubCall, or_assoc]

/-- Settles O23: the record shows the colours found, and both FAILACC and the plan's code say whether a sub-call failed. -/
theorem setPaletteStoresEveryColourFound : Obligations.SetPaletteStoresEveryColourFound := by
  intro s silk r g b hr
  have hdone := runStart_completed (encode (.setPalette silk r g b)) (planOf s.cfg (.setPalette silk r g b)) s
  obtain ⟨-, -, -, -, hfail, -⟩ := runStart_block (encode (.setPalette silk r g b)) (palettePlan s.cfg silk r g b) s
  refine ⟨_, runCommand_ready hr, ?_, fun hmiss => ⟨?_, hfail.trans (palettePlan_fails_iff.2 hmiss)⟩, fun hall => ⟨?_, ?_⟩⟩
  · rw [planSetPalette_eq, runStart_onlyStores_bus (palettePlan_ops ..) (colourCalls_onlyStores _ _ _),
      List.map_filterMap]
    simp only [colourCall, paletteSubCall, Option.map_map]
    rfl
  · rwa [planOf_code_of_missesATuple hmiss] at hdone
  · rwa [planOf_code_ok (c := s.cfg) (i := .setPalette silk r g b) not_false hall] at hdone
  · exact hfail.trans (Bool.eq_false_iff.2 (mt palettePlan_fails_iff.1 hall))

/-- A colour found leaves its duty in its register, unless a later colour of the palette has the same register. -/
theorem setPalette_cell {s t : State} {silk r g b tag x : Byte} {ch : Channel} {pre post : List (Byte × Byte)}
    (hexec : exec (.setPalette silk r g b) s = .next t) (hsplit : paletteColours r g b = pre ++ (tag, x) :: post)
    (hch : lookup s.cfg silk tag = some ch)
    (hlater : ∀ q ∈ post, ∀ later, lookup s.cfg silk q.1 = some later →
      ¬ (dutySlot s.cfg later = dutySlot s.cfg ch ∧ dutyCell s.cfg later = dutyCell s.cfg ch)) :
    t.cell (dutySlot s.cfg ch) (dutyCell s.cfg ch) = dutyOf (pctOf x) ch.maxDuty := by
  obtain ⟨hr, rfl⟩ := runCommand_next hexec
  rw [planSetPalette_eq, runStart_cell]
  refine doMicros_onlyStores_cell_last (pre := pre.filterMap (colourCall s.cfg silk))
    (post := post.filterMap (colourCall s.cfg silk)) (palettePlan_ops ..) (colourCalls_onlyStores _ _ _)
    (tuple_plain hr.1 (lookup_mem hch)) ?_ fun v' hv' => ?_
  · have hcall : colourCall s.cfg silk (tag, x) = some (.write _ _ _) := colourCall_eq_some.2 ⟨ch, hch, rfl⟩
    rw [hsplit, List.filterMap_append, List.filterMap_cons_some hcall]
  · obtain ⟨q, hq, hcall⟩ := List.mem_filterMap.1 hv'
    obtain ⟨later, hfound, hwrite⟩ := colourCall_eq_some.1 hcall
    obtain ⟨hslot, hcell, -⟩ := MicroOp.write.inj hwrite
    exact hlater q hq later hfound ⟨hslot, hcell⟩

/-- Settles O24: blue is the last colour, green is followed by blue, red by both. -/
theorem setPaletteLeavesTheDuties : Obligations.SetPaletteLeavesTheDuties := by
  intro s t silk r g b hexec
  refine ⟨fun ch hch => ?_, fun ch hch hlater => ?_, fun ch hch hlater => ?_⟩
  · exact setPalette_cell hexec (pre := [(tagRed, r), (tagGreen, g)]) (post := []) rfl hch (by simp)
  · exact setPalette_cell hexec (pre := [(tagRed, r)]) (post := [(tagBlue, b)]) rfl hch (by simpa using hlater)
  · exact setPalette_cell hexec (pre := []) (post := [(tagGreen, g), (tagBlue, b)]) rfl hch
      (by simpa [or_imp, forall_and] using hlater)

/-! ### The frame of the two commands -/

/-- SETLEDPERCENT with a tuple touches the one cell of its store, and without one nothing. -/
theorem setLedPercent_frame {s t : State} {silk tag : Byte} {percent : Percent}
    (hexec : exec (.setLedPercent silk tag percent) s = .next t) :
    Frame (fun d i => ∃ ch, lookup s.cfg silk tag = some ch ∧ d = dutySlot s.cfg ch ∧ i = dutyCell s.cfg ch)
      NoEndpoint s t ∧ LatchesKept s t ∧ t.failAcc = false := by
  have hrun : runCommand _ (planSetLedPercent s.cfg silk tag percent) s = .next t := hexec
  obtain ⟨hr, ht⟩ := runCommand_next hrun
  cases hch : lookup s.cfg silk tag with
  | none =>
    have hplan : planSetLedPercent s.cfg silk tag percent = .raise .fail := by simp only [planSetLedPercent, hch]
    rw [ht, hplan]
    obtain ⟨hframe, hlatch, hfail, -⟩ := raise_frame _ NoEndpoint _ .fail s
    exact ⟨hframe, hlatch, hfail⟩
  | some ch =>
    rw [planSetLedPercent_eq_planStore hr.1 hch] at hrun
    obtain ⟨hframe, hkept⟩ := runCommand_planStore_frame hrun
    exact ⟨hframe.mono (fun _ _ hcell => ⟨ch, rfl, hcell⟩) fun _ => id, hkept⟩

/-- Settles O25: every write of a SETPALETTE is the duty write of a tuple it found. -/
theorem colourCommandsTouchOnlyTheirDuties : Obligations.ColourCommandsTouchOnlyTheirDuties := by
  refine fun s t => ⟨fun _ _ _ => setLedPercent_frame, fun silk r g b hexec => ?_⟩
  obtain ⟨-, rfl⟩ := runCommand_next hexec
  obtain ⟨hframe, hlatch⟩ := runStart_onlyStores_frame (palettePlan_ops s.cfg silk r g b)
    (colourCalls_onlyStores _ _ _) (subCallPlan_end _ _).2 (encode (.setPalette silk r g b)) s
  refine ⟨hframe.mono ?_ fun _ => id, hlatch⟩
  rintro d i ⟨v, hv⟩
  obtain ⟨q, hq, hcall⟩ := List.mem_filterMap.1 hv
  obtain ⟨ch, hch, hwrite⟩ := colourCall_eq_some.1 hcall
  obtain ⟨hslot, hcell, -⟩ := MicroOp.write.inj hwrite
  refine ⟨q.1, ch, ?_, hch, hslot.symm, hcell.symm⟩
  simp only [paletteColours, List.mem_cons, List.not_mem_nil, or_false] at hq
  exact hq.imp (congrArg Prod.fst) (Or.imp (congrArg Prod.fst) (congrArg Prod.fst))

end Sys2Proof.Machine
end

section
/-! PROOFS. 41_color_model.md: ALLLEDSOFF and its three phases (R152 to R154). -/

namespace Sys2Proof.Machine

/-! ### The three phases (R152) -/

/-- The writes before any bank is enabled: phase 1 the periods, phase 2 the duties. -/
def darkWrites (c : Config) : List MicroOp :=
  c.pwmBanks.map (fun d => .write d c.pwmPeriodOff c.pwmPeriod) ++ c.chan.map (fun ch => dutyWrite c ch 0)

/-- Phase 3, the enables. -/
def enableWrites (c : Config) : List MicroOp := c.pwmBanks.map fun d => .write d c.pwmCtrlOff (runWord c)

/-- The writes of ALLLEDSOFF, in order. -/
def ledsOffWrites (c : Config) : List MicroOp := darkWrites c ++ enableWrites c

theorem planAllLedsOff_eq (c : Config) : planAllLedsOff c = .run (planOk (ledsOffWrites c)) := rfl

theorem length_darkWrites (c : Config) : (darkWrites c).length = c.nBank + c.nChan := by
  simp [darkWrites, Config.nBank, Config.nChan]

theorem length_ledsOffWrites (c : Config) : (ledsOffWrites c).length = 2 * c.nBank + c.nChan := by
  rw [ledsOffWrites, List.length_append, length_darkWrites, enableWrites, List.length_map, Config.nBank]
  omega

theorem mem_darkWrites {c : Config} {op : MicroOp} : op ∈ darkWrites c ↔
    (∃ d ∈ c.pwmBanks, .write d c.pwmPeriodOff c.pwmPeriod = op) ∨ ∃ ch ∈ c.chan, dutyWrite c ch 0 = op := by
  simp [darkWrites]

theorem mem_enableWrites {c : Config} {op : MicroOp} :
    op ∈ enableWrites c ↔ ∃ d ∈ c.pwmBanks, .write d c.pwmCtrlOff (runWord c) = op := List.mem_map

theorem mem_ledsOffWrites {c : Config} {op : MicroOp} : op ∈ ledsOffWrites c ↔
    ((∃ d ∈ c.pwmBanks, .write d c.pwmPeriodOff c.pwmPeriod = op) ∨ ∃ ch ∈ c.chan, dutyWrite c ch 0 = op) ∨
    ∃ d ∈ c.pwmBanks, .write d c.pwmCtrlOff (runWord c) = op := by
  rw [ledsOffWrites, List.mem_append, mem_darkWrites, mem_enableWrites]

theorem ledsOffWrites_onlyStores (c : Config) : OnlyStores (ledsOffWrites c) := by
  intro op hop
  obtain (⟨_, _, rfl⟩ | ⟨_, _, rfl⟩) | ⟨_, _, rfl⟩ := mem_ledsOffWrites.1 hop <;> exact ⟨_, _, _, rfl⟩

/-! ### The registers of the three phases are apart (R36 (7)) -/

section
variable {c : Config} (hw : c.wellFormed = true)
include hw

/-- A duty register is written with 0 alone. -/
theorem ledsOffWrites_duty {ch : Channel} (hch : ch ∈ c.chan) {v : Word}
    (h : .write (dutySlot c ch) (dutyCell c ch) v ∈ ledsOffWrites c) : v = 0 := by
  obtain ⟨-, -, hctrl, hperiod⟩ := wf_chan hw hch
  obtain (⟨_, _, hop⟩ | ⟨_, _, hop⟩) | ⟨_, _, hop⟩ := mem_ledsOffWrites.1 h <;> obtain ⟨-, hi, hv⟩ := MicroOp.write.inj hop
  · exact absurd hi.symm hperiod
  · exact hv.symm
  · exact absurd hi.symm hctrl

/-- A period register is written with PWM_PERIOD alone. -/
theorem ledsOffWrites_period {d : Nat} {v : Word} (h : .write d c.pwmPeriodOff v ∈ ledsOffWrites c) : v = c.pwmPeriod := by
  obtain (⟨_, _, hop⟩ | ⟨_, hch, hop⟩) | ⟨_, _, hop⟩ := mem_ledsOffWrites.1 h <;>
    obtain ⟨-, hi, hv⟩ := MicroOp.write.inj hop
  · exact hv.symm
  · obtain ⟨-, -, -, hperiod⟩ := wf_chan hw hch
    exact absurd hi hperiod
  · exact absurd hi (wf_ctrl_ne_period hw)

/-- No control register is written before phase 3. -/
theorem ctrl_notMem_darkWrites (d : Nat) (v : Word) : .write d c.pwmCtrlOff v ∉ darkWrites c := fun h => by
  obtain ⟨_, _, hop⟩ | ⟨_, hch, hop⟩ := mem_darkWrites.1 h <;> obtain ⟨-, hi, -⟩ := MicroOp.write.inj hop
  · exact wf_ctrl_ne_period hw hi.symm
  · obtain ⟨-, -, hctrl, -⟩ := wf_chan hw hch
    exact hctrl hi

/-- A control register is written with the run bit alone. -/
theorem ledsOffWrites_ctrl {d : Nat} {v : Word} (h : .write d c.pwmCtrlOff v ∈ ledsOffWrites c) : v = runWord c := by
  obtain ⟨_, _, hop⟩ := mem_enableWrites.1 ((List.mem_append.1 h).resolve_left (ctrl_notMem_darkWrites hw d v))
  obtain ⟨-, -, hv⟩ := MicroOp.write.inj hop
  exact hv.symm

end

/-! ### The obligations -/

/-- Settles O26: the record shows the writes of the plan, which is their list by phases. -/
theorem allLedsOffWritesInThreePhases : Obligations.AllLedsOffWritesInThreePhases := by
  intro s hr
  refine ⟨_, runCommand_ready hr, planOk_completed _ _ s, ?_⟩
  rw [planAllLedsOff_eq, runStart_onlyStores_bus (planOk_ops _) (ledsOffWrites_onlyStores s.cfg), ledsOffWrites,
    darkWrites, enableWrites]
  simp only [List.map_append, List.map_map, List.append_assoc]
  rfl

/-- Settles O27: each register of the three phases is a plain one that is written with one word alone. -/
theorem allLedsOffLeavesLedsDarkAndBanksEnabled : Obligations.AllLedsOffLeavesLedsDarkAndBanksEnabled := by
  intro s t hexec
  obtain ⟨hr, rfl⟩ := runCommand_next hexec
  simp only [planAllLedsOff_eq, runStart_cell]
  have hops := ledsOffWrites_onlyStores s.cfg
  refine ⟨fun ch hch => ?_, fun d hd => ?_⟩
  · exact doMicros_onlyStores_cell_const (planOk_ops _) hops (tuple_plain hr.1 hch) (fun _ => ledsOffWrites_duty hr.1 hch)
      (mem_ledsOffWrites.2 (.inl (.inr ⟨ch, hch, rfl⟩)))
  · obtain ⟨-, -, hpwm⟩ := wf_bank hr.1 hd
    constructor
    · exact doMicros_onlyStores_cell_const (planOk_ops _) hops (pwm_plain hpwm (.inr (.inl rfl)))
        (fun _ => ledsOffWrites_period hr.1) (mem_ledsOffWrites.2 (.inl (.inl ⟨d, hd, rfl⟩)))
    · rw [doMicros_onlyStores_cell_const (planOk_ops _) hops (pwm_plain hpwm (.inl rfl))
        (fun _ => ledsOffWrites_ctrl hr.1) (mem_ledsOffWrites.2 (.inr ⟨d, hd, rfl⟩)), runWord, getLsbD_oneBit,
        decide_eq_true rfl]

/-- Settles O28: every write is that of a bank's period or control register, or of a tuple's duty register. -/
theorem allLedsOffTouchesOnlyBanksAndTable : Obligations.AllLedsOffTouchesOnlyBanksAndTable := by
  intro s t hexec
  obtain ⟨-, rfl⟩ := runCommand_next hexec
  obtain ⟨hframe, hlatch⟩ := runStart_onlyStores_frame (planOk_ops _) (ledsOffWrites_onlyStores s.cfg) rfl
    (encode .allLedsOff) s
  obtain ⟨-, -, -, -, hfail, -⟩ := runStart_block (encode .allLedsOff) (planOk (ledsOffWrites s.cfg)) s
  refine ⟨hframe.mono ?_ fun _ => id, hlatch, hfail.trans (by simp [planOk])⟩
  rintro d i ⟨v, hv⟩
  obtain (⟨_, hd, hop⟩ | ⟨ch, hch, hop⟩) | ⟨_, hd, hop⟩ := mem_ledsOffWrites.1 hv <;>
    obtain ⟨rfl, rfl, -⟩ := MicroOp.write.inj hop
  · exact .inl ⟨hd, .inl rfl⟩
  · exact .inr ⟨ch, hch, rfl, rfl⟩
  · exact .inl ⟨hd, .inr rfl⟩

/-- After `n` micro-steps of ALLLEDSOFF the cells are those that its first `n` writes leave, also when the last one has
completed the command. -/
theorem microSteps_allLedsOff_cell {s : State} (hw : s.cfg.wellFormed = true) {n : Nat}
    (hn : n ≤ 2 * s.cfg.nBank + s.cfg.nChan) (d i : Nat) :
    (microSteps n (accept (encode .allLedsOff) s)).cell d i =
      (doMicros (planOk ((ledsOffWrites s.cfg).take n)).steps (accept (encode .allLedsOff) s)).cell d i := by
  have hstart := startOfWord_encode s.cfg .allLedsOff
  have hlen : (planOk (ledsOffWrites s.cfg)).steps.length = 2 * s.cfg.nBank + s.cfg.nChan := by
    rw [planOk, List.length_map, length_ledsOffWrites]
  have htake : (planOk ((ledsOffWrites s.cfg).take n)).steps = (planOk (ledsOffWrites s.cfg)).steps.take n := List.map_take
  rw [htake]
  rcases hn.lt_or_eq with hlt | rfl
  · rw [microSteps_lt (p := planOk (ledsOffWrites s.cfg)) hstart rfl (hlen ▸ wf_length hw) (hlen ▸ hlt)]
  · have hpos : 0 < 2 * s.cfg.nBank + s.cfg.nChan := by have := wf_nBank hw; omega
    rw [← hlen, microSteps_length hstart rfl (hlen ▸ wf_length hw) (hlen ▸ hpos), finish_cell, List.take_length]

/-- Settles O29: up to the end of phase 2 no control register is written, and from there on every duty is written, with 0. -/
theorem noBankRunsWithAnUnwrittenDuty : Obligations.NoBankRunsWithAnUnwrittenDuty := by
  intro s hr hstopped n hn d hd hrun ch hch
  have hops : OnlyStores ((ledsOffWrites s.cfg).take n) := fun op hop =>
    ledsOffWrites_onlyStores s.cfg op (List.mem_of_mem_take hop)
  rw [microSteps_allLedsOff_cell hr.1 hn] at hrun ⊢
  rcases Nat.le_total n (darkWrites s.cfg).length with hdark | hdark
  · obtain ⟨-, -, hpwm⟩ := wf_bank hr.1 hd
    have hnot (v : Word) : .write d s.cfg.pwmCtrlOff v ∉ (ledsOffWrites s.cfg).take n := fun h => by
      rw [ledsOffWrites, List.take_append_of_le_length hdark] at h
      exact ctrl_notMem_darkWrites hr.1 d v (List.mem_of_mem_take h)
    rw [doMicros_onlyStores_cell_untouched (planOk_ops _) hops (pwm_plain hpwm (.inl rfl)) hnot, hstopped d hd] at hrun
    cases hrun
  · refine doMicros_onlyStores_cell_const (planOk_ops _) hops (tuple_plain hr.1 hch)
      (fun _ h => ledsOffWrites_duty hr.1 hch (List.mem_of_mem_take h)) ?_
    rw [ledsOffWrites, List.take_append, List.take_of_length_le hdark]
    exact List.mem_append_left _ (mem_darkWrites.2 (.inr ⟨ch, hch, rfl⟩))

end Sys2Proof.Machine
end

section
/-! PROOFS. 42_interrupt_rearm.md: CONFIGUREDEVICE: its words by the device's flags (R171, R174), its four stores (R172), and
the device it arms (R173). -/

namespace Sys2Proof.Machine

/-! ### The words of a device (R171, R174) -/

/-- Without an interrupt no channel is tracked. -/
theorem tracks_of_noIrq {D : Device} (h : D.hasIrq = false) : track1 D = false ∧ track2 D = false := by
  simp [track1, track2, h]

/-- With an interrupt the enabled input channels are tracked. -/
theorem tracks_of_irq {D : Device} (h : D.hasIrq = true) :
    track1 D = (D.enable1 && !D.output1) ∧ track2 D = (D.enable2 && !D.output2) := by
  simp [track1, track2, h]

/-- The two words for each way to track channels. -/
theorem interruptWords_of_tracks {D : Device} {a b : Bool} (h1 : track1 D = a) (h2 : track2 D = b) (c : Config) :
    ierWord c D = (if a then oneBit c.ierCh1Bit else 0) ||| (if b then oneBit c.ierCh2Bit else 0) ∧
    gierWord D = if a || b then 0x80000000#32 else 0 := by
  rw [ierWord, gierWord, h1, h2]
  exact ⟨rfl, rfl⟩

/-- Settles O30: the flags say which channels are tracked, and these give the two words. -/
theorem interruptWordsFollowTheFlags : Obligations.InterruptWordsFollowTheFlags := by
  intro c D
  have hwords {a b : Bool} (hirq : D.hasIrq = true) (h1 : (D.enable1 && !D.output1) = a)
      (h2 : (D.enable2 && !D.output2) = b) :=
    interruptWords_of_tracks ((tracks_of_irq hirq).1.trans h1) ((tracks_of_irq hirq).2.trans h2) c
  refine ⟨fun hirq => ?_, fun hirq h1 h2 => ?_, fun hirq h1 h2 => ?_, fun hirq h1 h2 => ?_, fun hirq h1 h2 => ?_⟩
  · obtain ⟨h1, h2⟩ := tracks_of_noIrq hirq
    simpa using interruptWords_of_tracks h1 h2 c
  · simpa using hwords hirq h1 h2
  · simpa [oneBit] using hwords hirq h1 h2
  · simpa [oneBit] using hwords hirq h1 h2
  · simpa [oneBit] using hwords hirq h1 h2

/-! ### The device states (R173) -/

theorem deviceState_of_devices {s t : State} (h : t.devices = s.devices) (d : Nat) : t.deviceState d = s.deviceState d := by
  rw [State.deviceState, h, State.deviceState]

/-- The end of a command arms the plan's device, if it names one, and leaves the others. -/
theorem finish_deviceState (p : Plan) (s : State) (d : Nat) :
    (finish p s).deviceState d = if p.arms = some d then .armed else s.deviceState d := by
  simp only [finish, complete_deviceState]
  cases harms : p.arms with
  | none => simp [armDevice]
  | some e =>
    by_cases he : e = d
    · simp [armDevice, he]
    · simp [armDevice, he, setDeviceState_deviceState_ne _ _ (Ne.symm he)]

theorem runStart_deviceState (w : CommandWord) (p : Plan) (s : State) (d : Nat) :
    (runStart (.run p) (accept w s)).deviceState d = if p.arms = some d then .armed else s.deviceState d := by
  obtain ⟨-, -, -, -, -, -, hdevices, -⟩ := doMicros_block p.steps (accept w s)
  rw [runStart, finish_deviceState, deviceState_of_devices hdevices, accept_deviceState]

/-- No device is disarmed: what is armed in `s` is armed in `t`. -/
def ArmedKept (s t : State) : Prop := ∀ d, s.deviceState d = .armed → t.deviceState d = .armed

theorem ArmedKept.of_devices {s t : State} (h : t.devices = s.devices) : ArmedKept s t := fun d hd =>
  (deviceState_of_devices h d).trans hd

theorem ArmedKept.trans {s t u : State} (h : ArmedKept s t) (h' : ArmedKept t u) : ArmedKept s u := fun d hd =>
  h' d (h d hd)

theorem finish_armedKept (p : Plan) (s : State) : ArmedKept s (finish p s) := by
  intro d hd
  rw [finish_deviceState, hd, ite_self]

theorem doMicro_armedKept (m : MicroStep) (s : State) : ArmedKept s (doMicro m s) := by
  obtain ⟨-, -, -, -, -, -, hdevices, -⟩ := doMicro_block m s
  exact .of_devices hdevices

theorem microStep_armedKept (s : State) : ArmedKept s (microStep s) := by
  rcases microStep_cases s with ⟨c, h⟩ | ⟨p, -, h⟩ | ⟨p, m, -, -, h | h⟩ <;> rw [h]
  · exact .of_devices rfl
  · exact finish_armedKept p s
  · exact (doMicro_armedKept m s).trans (finish_armedKept p _)
  · exact doMicro_armedKept m s

theorem runStart_armedKept (st : Start) (w : CommandWord) (s : State) : ArmedKept s (runStart st (accept w s)) := by
  cases st with
  | raise c => exact .of_devices rfl
  | run p =>
    intro d hd
    rw [runStart_deviceState, hd, ite_self]

/-- Settles O47: only the end of a command writes a device state, and it writes `armed`. -/
theorem armedDevicesStayArmed : Obligations.ArmedDevicesStayArmed := by
  intro s t d h
  suffices hkept : ArmedKept s t from hkept d
  obtain ⟨-, ⟨-, -, rfl⟩ | ⟨-, w, i, -, -, rfl⟩ | ⟨-, w, -, rfl⟩ | ⟨-, -, hhost⟩⟩ := step_cases h
  · exact microStep_armedKept s
  · exact runStart_armedKept _ _ { s with port := none }
  · exact runStart_armedKept _ _ { s with port := none }
  · exact .of_devices (hostStep_envGap_blockKept hhost).devices

/-! ### The four stores (R172) -/

/-- The cells that CONFIGUREDEVICE writes, with their words, in order. -/
def configureStores (c : Config) (D : Device) : List (Nat × Word) :=
  [(c.gpioTri1Off, triWord D.output1), (c.gpioTri2Off, triWord D.output2), (c.gpioIerOff, ierWord c D),
   (c.gpioGierOff, gierWord D)]

theorem configureWrites_eq (c : Config) (d : Nat) (D : Device) :
    configureWrites c d D = (configureStores c D).map fun q => .write d q.1 q.2 := rfl

/-- The plan of CONFIGUREDEVICE for a device that passes the checks. -/
def configurePlan (c : Config) (d : Nat) (D : Device) : Plan :=
  { planOk (configureWrites c d D) with arms := some d }

theorem configurePlan_ops (c : Config) (d : Nat) (D : Device) :
    (configurePlan c d D).steps.map (·.op) = configureWrites c d D := planOk_ops _

theorem mem_configureWrites {c : Config} {d e i : Nat} {D : Device} {v : Word} :
    .write e i v ∈ configureWrites c d D ↔ e = d ∧ (i, v) ∈ configureStores c D := by
  rw [configureWrites_eq, List.mem_map]
  constructor
  · rintro ⟨q, hq, hop⟩
    obtain ⟨rfl, rfl, rfl⟩ := MicroOp.write.inj hop
    exact ⟨rfl, hq⟩
  · rintro ⟨rfl, hq⟩
    exact ⟨_, hq, rfl⟩

theorem configureWrites_onlyStores (c : Config) (d : Nat) (D : Device) : OnlyStores (configureWrites c d D) := by
  intro op hop
  rw [configureWrites_eq] at hop
  obtain ⟨q, -, rfl⟩ := List.mem_map.1 hop
  exact ⟨_, _, _, rfl⟩

theorem configureStores_cell {c : Config} {D : Device} {i : Nat} {v : Word} (h : (i, v) ∈ configureStores c D) :
    i = c.gpioTri1Off ∨ i = c.gpioTri2Off ∨ i = c.gpioIerOff ∨ i = c.gpioGierOff := by
  simp only [configureStores, List.mem_cons, List.not_mem_nil, or_false, Prod.mk.injEq] at h
  exact h.imp And.left (Or.imp And.left (Or.imp And.left And.left))

/-- The four cells are distinct (R36 (7)), so each is written with one word. -/
theorem configureStores_unique {c : Config} (hw : c.wellFormed = true) {D : Device} {i : Nat} {v v' : Word}
    (h : (i, v) ∈ configureStores c D) (h' : (i, v') ∈ configureStores c D) : v' = v := by
  have hnodup : ((configureStores c D).map Prod.fst).Nodup := by
    have hn := wf_gpio_nodup hw
    simp only [List.nodup_cons, List.mem_cons, List.not_mem_nil, or_false, not_or] at hn
    obtain ⟨-, ⟨-, htri, hgier1, -, hier1⟩, -, ⟨hgier2, -, hier2⟩, ⟨-, hier⟩, -⟩ := hn
    simp [configureStores, htri, hgier1, hier1, hgier2, hier2, Ne.symm hier]
  exact congrArg Prod.snd (List.inj_on_of_nodup_map hnodup h' h rfl)

/-- In an input or indicator window each of the four cells holds its word after the command. -/
theorem runStart_configurePlan_cell {s : State} (hw : s.cfg.wellFormed = true) {d : Nat} (hpwm : isPwm s.cfg d = false)
    {D : Device} {i : Nat} {v : Word} (h : (i, v) ∈ configureStores s.cfg D) (w : CommandWord) :
    (runStart (.run (configurePlan s.cfg d D)) (accept w s)).cell d i = v := by
  rw [runStart_cell]
  exact doMicros_onlyStores_cell_const (configurePlan_ops ..) (configureWrites_onlyStores _ _ _)
    (gpio_plain hw hpwm (configureStores_cell h))
    (fun _ hv' => configureStores_unique hw h (mem_configureWrites.1 hv').2) (mem_configureWrites.2 ⟨rfl, h⟩)

/-- A command whose check fails touches nothing (R98). -/
theorem exec_frame_of_failsChecks {i : Instr} {s t : State} (hexec : exec i s = .next t) (hfails : FailsChecks s.cfg i)
    (P : Nat → Nat → Prop) (N : Nat → Prop) : Frame P N s t ∧ LatchesKept s t ∧ t.failAcc = false := by
  rw [exec_eq, planOf_of_failsChecks hfails] at hexec
  obtain ⟨-, rfl⟩ := runCommand_next hexec
  obtain ⟨hframe, hlatch, hfail, -⟩ := raise_frame P N (encode i) .illegal s
  exact ⟨hframe, hlatch, hfail⟩

/-- Settles O31: the plan is the four stores to distinct cells, and its end arms the device. -/
theorem configureDeviceWritesFourRegisters : Obligations.ConfigureDeviceWritesFourRegisters := by
  intro s dev D hr hD htri1 htri2 hier hgier
  have hplan : planOf s.cfg (.configureDevice dev) = .run (configurePlan s.cfg dev.toNat D) := by
    simp only [planOf, planConfigureDevice, hD]
    exact if_pos (configureCells_legal_iff.2 ⟨htri1, htri2, hier, hgier⟩)
  refine ⟨_, by rw [exec_eq, runCommand_ready hr, hplan],
    runStart_completed _ (.run (configurePlan s.cfg dev.toNat D)) s, ?_, ?_, fun hpwm => ?_⟩
  · rw [runStart_deviceState]
    exact if_pos rfl
  · exact runStart_onlyStores_bus (configurePlan_ops ..) (configureWrites_onlyStores _ _ _) _ s
  · have hcell {i : Nat} {v : Word} (h : (i, v) ∈ configureStores s.cfg D) :=
      runStart_configurePlan_cell hr.1 hpwm h (encode (.configureDevice dev))
    refine ⟨hcell ?_, hcell ?_, hcell ?_, hcell ?_⟩ <;> simp [configureStores, triWord, triDrive, triInput]

/-- Settles O32: the plan writes its four cells and arms its device; without a plan nothing is touched. -/
theorem configureDeviceTouchesFourCells : Obligations.ConfigureDeviceTouchesFourCells := by
  intro s t dev hexec
  by_cases hfails : FailsChecks s.cfg (.configureDevice dev)
  · obtain ⟨hframe, hlatch, hfail⟩ := exec_frame_of_failsChecks hexec hfails _ NoEndpoint
    exact ⟨hframe, hlatch.isrLatch, hfail, hlatch.freeReads, fun d _ => deviceState_of_devices hlatch.devices d⟩
  · obtain ⟨-, rfl⟩ := runCommand_next hexec
    obtain ⟨D, hplan⟩ := planConfigureDevice_legal hfails
    rw [← configurePlan] at hplan
    rw [hplan]
    obtain ⟨-, -, -, -, hfail, -, -, hlatches⟩ :=
      runStart_block (encode (.configureDevice dev)) (configurePlan s.cfg dev.toNat D) s
    obtain ⟨hisr, hreads⟩ := hlatches (by simp [configurePlan, planOk, configureWrites])
    refine ⟨(runStart_frame _ _ s).mono ?_ ?_, hisr, hfail.trans (by simp [configurePlan, planOk]), hreads,
      fun d hd => ?_⟩
    · simp [configurePlan, planOk, configureWrites, MicroOp.Touches, ← and_or_left]
    · simp [configurePlan, planOk, configureWrites, MicroOp.Notifies]
    · rw [runStart_deviceState]
      exact if_neg fun h => hd (Option.some.inj h).symm

end Sys2Proof.Machine
end

section
/-! PROOFS. 42_interrupt_rearm.md: the frame of REACKNOWLEDGE (R176), and ACKNOTIFICATION, which unmasks the line (R181). -/

namespace Sys2Proof.Machine

/-! ### The frame of REACKNOWLEDGE (R176) -/

/-- A read of a register that a rule names uses up no free value (log 7). -/
theorem afterRead_known {s : State} {d i : Nat} (h : regAt s.cfg d i ≠ .unknown) : afterRead s d i = s := if_neg h

/-- A micro-step other than the status read uses up no free value. -/
theorem doMicro_freeReads {m : MicroStep} (h : ∀ d, m.op ≠ .readStatus d) (s : State) :
    (doMicro m s).freeReads = s.freeReads := by
  obtain ⟨-, -, -, -, -, -, -, -, hkept⟩ := doMicro_block m s
  exact (hkept h).2

theorem finish_freeReads (p : Plan) (s : State) : (finish p s).freeReads = s.freeReads := by
  obtain ⟨-, -, hreads, -⟩ := finish_kept p s
  exact hreads

/-- In an input or indicator window the status read finds a register, so it uses up no free value. -/
theorem reackRead_freeReads {s : State} {d : Nat} (hpwm : isPwm s.cfg d = false) (w : CommandWord) :
    (reackRead w d s).freeReads = s.freeReads := by
  have hknown : regAt s.cfg d s.cfg.gpioIsrOff ≠ .unknown := by simp [regAt_gpioIsr hpwm]
  rw [reackRead, (doMicro_readStatus false d _).2, afterRead_known (by simpa using hknown)]
  simp [beforeEffect, doMicro_freeReads]

theorem reackDone_freeReads {s : State} {d : Nat} (hpwm : isPwm s.cfg d = false) (w : CommandWord) :
    (reackDone w d s).freeReads = s.freeReads := by
  have hwritten : (reackWritten w d s).freeReads = s.freeReads :=
    (doMicro_freeReads (by simp) _).trans (reackRead_freeReads hpwm w)
  rw [reackDone, runStart, finish_freeReads, ← hwritten]
  exact doMicro_freeReads (by simp) _

/-- A REACKNOWLEDGE that passes its checks and answers a next state is the whole of its four micro-steps. -/
theorem reacknowledge_next {s t : State} {dev : Byte} (hexec : exec (.reacknowledge dev) s = .next t)
    (hin : InWindow s.cfg dev.toNat s.cfg.gpioIsrOff) : t = reackDone (encode (.reacknowledge dev)) dev.toNat s := by
  have hrun := exec_reacknowledge (runCommand_next hexec).1 hin
  rw [hexec] at hrun
  exact Host.Outcome.next.inj hrun

/-- Settles O35: of the four micro-steps only the write-back writes, and it writes the status cell. -/
theorem reacknowledgeTouchesOneCell : Obligations.ReacknowledgeTouchesOneCell := by
  intro s t dev hexec
  by_cases hfails : FailsChecks s.cfg (.reacknowledge dev)
  · obtain ⟨hframe, hlatch, hfail⟩ := exec_frame_of_failsChecks hexec hfails _ NoEndpoint
    exact ⟨hframe, hfail, hlatch.devices, fun _ => hlatch.freeReads⟩
  · obtain rfl := reacknowledge_next hexec (not_not.1 hfails)
    obtain ⟨-, -, -, -, hfail, -, hdevices, -⟩ := runStart_block (encode (.reacknowledge dev))
      (planOk [.delay .reackPre, .readStatus dev.toNat, .writeLatch dev.toNat, .delay .reackPost]) s
    refine ⟨(runStart_frame _ _ s).mono ?_ ?_, hfail, hdevices rfl, fun hpwm => reackDone_freeReads hpwm _⟩
    · simp [planOk, MicroOp.Touches]
    · simp [planOk, MicroOp.Notifies]

/-! ### ACKNOTIFICATION (R181) -/

/-- Completion is invisible to the environment. -/
theorem finish_same (p : Plan) (s : State) : SameEnv s (finish p s) := by
  rw [finish]
  cases p.arms <;> exact ⟨rfl, rfl, rfl, rfl, rfl, rfl, rfl⟩

/-- An ACKNOTIFICATION of slot `d` after its endpoint write. -/
def ackNotified (w : CommandWord) (d : Nat) (s : State) : State := doMicro ⟨false, .notify d⟩ (accept w s)

/-- The whole ACKNOTIFICATION. -/
def ackDone (w : CommandWord) (d : Nat) (s : State) : State :=
  runStart (.run (planOk [.notify d, .delay .ack])) (accept w s)

section
variable (w : CommandWord) (d : Nat) (s : State)

/-- The state the endpoint write acts on is the one its gap leaves, for all that the environment sees. -/
theorem ackBefore_same : SameEnv (envGap s) (beforeEffect ⟨false, .notify d⟩ (accept w s)) :=
  beforeEffect_same _ (accept_same w s)

theorem ackNotified_endpoint : (ackNotified w d s).endpoint d = { (envGap s).endpoint d with masked := false } := by
  rw [← (ackBefore_same w d s).endpoint]
  exact setEndpoint_endpoint_self _ d _

theorem ackNotified_cell (e i : Nat) : (ackNotified w d s).cell e i = (envGap s).cell e i :=
  (ackBefore_same w d s).cell e i

theorem ackNotified_gaps : (ackNotified w d s).gaps = s.gaps.tail := (ackBefore_same w d s).gaps.trans (envGap_gaps s)

@[simp] theorem ackNotified_cfg : (ackNotified w d s).cfg = s.cfg := doMicro_cfg _ _

/-- The delay and the completion leave what the environment sees as the last gap left it. -/
theorem ackDone_same : SameEnv (envGap (ackNotified w d s)) (ackDone w d s) :=
  (doMicro_same ⟨false, .delay .ack⟩ (.refl (ackNotified w d s)) (.inl ⟨_, rfl⟩)).trans (finish_same _ _)

end

/-- With no move in the last gap the endpoint is as the write left it. -/
theorem ackDone_endpoint_quiet {w : CommandWord} {d : Nat} {s : State} (h : s.gaps.length ≤ 1) :
    (ackDone w d s).endpoint d = { (envGap s).endpoint d with masked := false } := by
  have hlast : (ackNotified w d s).gaps = [] := by
    rw [ackNotified_gaps, ← List.length_eq_zero_iff, List.length_tail]
    omega
  rw [(ackDone_same w d s).endpoint, envGap_quiet hlast, ackNotified_endpoint]

theorem exec_ackNotification {s : State} {dev : Byte} (hr : Ready s) (hdev : dev.toNat < s.cfg.nDev)
    (hhandle : s.cfg.hasHandle dev.toNat = true) :
    exec (.ackNotification dev) s = .next (ackDone (encode (.ackNotification dev)) dev.toNat s) := by
  have hplan : planOf s.cfg (.ackNotification dev) = .run (planOk [.notify dev.toNat, .delay .ack]) :=
    if_pos (handleLegal_iff.2 ⟨hdev, hhandle⟩)
  rw [exec_eq, runCommand_ready hr, hplan]
  rfl

/-- An ACKNOTIFICATION that passes its checks and answers a next state is the whole of its two micro-steps. -/
theorem ackNotification_next {s t : State} {dev : Byte} (hexec : exec (.ackNotification dev) s = .next t)
    (hdev : dev.toNat < s.cfg.nDev) (hhandle : s.cfg.hasHandle dev.toNat = true) :
    t = ackDone (encode (.ackNotification dev)) dev.toNat s := by
  have hrun := exec_ackNotification (runCommand_next hexec).1 hdev hhandle
  rw [hexec] at hrun
  exact Host.Outcome.next.inj hrun

/-- Settles O36: the write unmasks; the gap after it keeps the endpoint or delivers to it once. -/
theorem ackNotificationUnmasksTheLine : Obligations.AckNotificationUnmasksTheLine := by
  intro s dev hr hdev hhandle
  refine ⟨_, exec_ackNotification hr hdev hhandle, planOk_completed _ _ s, ?_, ?_, fun hgaps => ?_⟩
  · exact runStart_bus _ (planOk [.notify dev.toNat, .delay .ack]) s (·.event s) (by simp [planOk, MicroOp.event])
  · rw [(ackDone_same _ _ s).endpoint, ← ackNotified_endpoint (encode (.ackNotification dev))]
    refine ((envGap_frame _).endpoints dev.toNat not_false).imp id ?_
    rintro ⟨-, -, hdelivered⟩
    rw [hdelivered, ackNotified_endpoint]
  · exact ackDone_endpoint_quiet hgaps

/-- Settles O37: of the two micro-steps one writes the endpoint and the other nothing. -/
theorem ackNotificationTouchesNoWindow : Obligations.AckNotificationTouchesNoWindow := by
  intro s t dev hexec
  by_cases hfails : FailsChecks s.cfg (.ackNotification dev)
  · exact exec_frame_of_failsChecks hexec hfails _ _
  · obtain ⟨hdev, hhandle⟩ := not_not.1 hfails
    obtain rfl := ackNotification_next hexec hdev hhandle
    obtain ⟨-, -, -, -, hfail, -, hdevices, hlatches⟩ :=
      runStart_block (encode (.ackNotification dev)) (planOk [.notify dev.toNat, .delay .ack]) s
    obtain ⟨hisr, hreads⟩ := hlatches (by simp [planOk])
    refine ⟨(runStart_frame _ _ s).mono ?_ ?_, ⟨hisr, hdevices rfl, hreads⟩, hfail⟩
    · simp [planOk, MicroOp.Touches]
    · simp [planOk, MicroOp.Notifies]

end Sys2Proof.Machine
end

section
/-! PROOFS. 42_interrupt_rearm.md: no cause is lost by REACKNOWLEDGE and then ACKNOTIFICATION (R177, R183). -/

namespace Sys2Proof.Machine

/-! ### A cause raised in a gap is pending after it (R210) -/

theorem envSteps_raises {s : State} {d : Nat} {bits : Word} {es : List EnvStep} (hs : hasStatus s.cfg d = true)
    (hmem : .raiseStatus d bits ∈ es) : bits &&& (envSteps es s).cell d s.cfg.gpioIsrOff = bits := by
  induction es generalizing s with
  | nil => cases hmem
  | cons e es ih =>
    rw [envSteps]
    rcases List.mem_cons.1 hmem with rfl | hmem
    · have hraised : bits &&& (envStep (.raiseStatus d bits) s).cell d s.cfg.gpioIsrOff = bits := by
        rw [envStep, if_pos hs, setCell_cell_self, BitVec.or_comm, and_or_self]
      exact status_trans hraised ((envSteps_kept es _).status d _)
    · have hcfg := (envStep_kept e s).cfg
      rw [← hcfg]
      exact ih (hcfg ▸ hs) hmem

theorem envGap_raises {s : State} {d : Nat} {bits : Word} {g : List EnvStep} (hs : hasStatus s.cfg d = true)
    (hg : s.gaps[0]? = some g) (hmem : .raiseStatus d bits ∈ g) :
    bits &&& (envGap s).cell d s.cfg.gpioIsrOff = bits := by
  have hhead : s.gaps.headD [] = g := by rw [List.headD_eq_head?_getD, List.head?_eq_getElem?, hg, Option.getD_some]
  rw [envGap_eq, hhead]
  exact envSteps_raises (s := { s with gaps := s.gaps.tail }) hs hmem

/-! ### The two commands of a re-arm -/

theorem reackDone_same (w : CommandWord) (d : Nat) (s : State) :
    SameEnv (envGap (reackWritten w d s)) (reackDone w d s) := by
  have hdelay := doMicro_same ⟨false, .delay .reackPost⟩ (.refl (reackWritten w d s)) (.inl ⟨_, rfl⟩)
  rw [reackDone, runStart]
  exact hdelay.trans (finish_same _ _)

/-- A REACKNOWLEDGE uses up four lists of the script. -/
theorem reackDone_gaps (w : CommandWord) (d : Nat) (s : State) :
    (reackDone w d s).gaps = s.gaps.tail.tail.tail.tail := by
  rw [(reackDone_same w d s).gaps, envGap_gaps, reackWritten_gaps]

/-- A cause raised in the gap before the last delay of REACKNOWLEDGE is pending when it ends. -/
theorem reackDone_raises {s : State} {d : Nat} {bits : Word} {g : List EnvStep} (hs : hasStatus s.cfg d = true)
    (hg : s.gaps[3]? = some g) (hmem : .raiseStatus d bits ∈ g) (w : CommandWord) :
    bits &&& (reackDone w d s).cell d s.cfg.gpioIsrOff = bits := by
  rw [(reackDone_same w d s).cell, ← reackWritten_cfg w d s]
  exact envGap_raises (by simpa using hs) (by simpa [reackWritten_gaps] using hg) hmem

/-- A cause raised in either gap of ACKNOTIFICATION is pending when it ends. -/
theorem ackDone_raises {s : State} {d n : Nat} {bits : Word} {g : List EnvStep} (hs : hasStatus s.cfg d = true)
    (hn : n < 2) (hg : s.gaps[n]? = some g) (hmem : .raiseStatus d bits ∈ g) (w : CommandWord) :
    bits &&& (ackDone w d s).cell d s.cfg.gpioIsrOff = bits := by
  rw [(ackDone_same w d s).cell]
  obtain rfl | rfl : n = 0 ∨ n = 1 := by omega
  · refine status_trans ?_ (envGap_status (ackNotified w d s) d s.cfg.gpioIsrOff)
    rw [ackNotified_cell]
    exact envGap_raises hs hg hmem
  · rw [← ackNotified_cfg w d s]
    exact envGap_raises (by simpa using hs) (by simpa [ackNotified_gaps] using hg) hmem

/-- What is pending stays pending outside the bits that a mask clears. -/
theorem and_not_status {a b : Word} (h : a &&& b = a) (m : Word) : (a &&& ~~~m) &&& (b &&& ~~~m) = a &&& ~~~m := by
  calc (a &&& ~~~m) &&& (b &&& ~~~m)
    _ = (a &&& b) &&& (~~~m &&& ~~~m) := by ac_rfl
    _ = a &&& ~~~m := by rw [h, BitVec.and_self]

/-- Settles O38: REACKNOWLEDGE clears exactly the bits read (O33), ACKNOTIFICATION touches no cell (O37), and a cause raised
in a gap is pending after it. -/
theorem rearmLosesNoCause : Obligations.RearmLosesNoCause := by
  intro s t u dev hr hin hpwm hhandle hreack hack S1 S2
  have hstatus : hasStatus s.cfg dev.toNat = true := by simp [hasStatus, cellLegal_iff.2 hin, hpwm]
  obtain ⟨t', ht', -, hlatch, -, hkeep, -, hzero⟩ := reacknowledgeClearsWhatWasRead s dev hr hin hpwm
  obtain rfl : t = t' := by simpa [hreack] using ht'
  obtain ⟨hreackFrame, -⟩ := reacknowledgeTouchesOneCell s t dev hreack
  have hcfg : t.cfg = s.cfg := hreackFrame.cfg
  have ht := reacknowledge_next hreack hin
  have hu := ackNotification_next hack (hcfg ▸ hin.1) (hcfg ▸ hhandle)
  obtain ⟨hackFrame, -⟩ := ackNotificationTouchesNoWindow t u dev hack
  have hstay := hackFrame.status dev.toNat s.cfg.gpioIsrOff not_false
  have hkept := status_trans hkeep hstay
  refine ⟨hlatch, hkeep, hstay, hkept, fun g bits hg hmem => ?_, fun n g bits hlow hhigh hg hmem => ?_, fun hq => ?_⟩
  · have hraised : bits &&& S2 = bits := by
      simpa using envGap_raises (s := envGap (envGap s)) (by simpa using hstatus) (by simpa using hg) hmem
    exact status_trans (and_not_status hraised S1) hkept
  · obtain rfl | hlater : n = 3 ∨ 4 ≤ n := by omega
    · exact status_trans (ht ▸ reackDone_raises hstatus hg hmem _) hstay
    · have hg' : t.gaps[n - 4]? = some g := by
        rw [ht, reackDone_gaps, ← hg, ← Nat.sub_add_cancel hlater]
        simp
      rw [hu, ← hcfg]
      exact ackDone_raises (hcfg ▸ hstatus) (by omega) hg' hmem _
  · obtain ⟨hgaps, -, -, -, -, hend⟩ := hreackFrame.quiet hq
    obtain ⟨-, -, -, -, hcells, -⟩ := hackFrame.quiet hgaps
    refine ⟨(hcells _ _ not_false).trans (hzero hq), ?_⟩
    rw [hu, ackDone_endpoint_quiet (by simp [hgaps]), envGap_quiet hgaps, hend _ not_false]

end Sys2Proof.Machine
end

section
/-! PROOFS. 60_exceptions.md: when the driver delivers (R211, R212). -/

namespace Sys2Proof.Machine

/-- The driver's condition for a delivery (log 21). -/
theorem envStep_deliver_delivers {s : State} {d : Nat} (hhandle : s.cfg.hasHandle d = true)
    (hstatus : hasStatus s.cfg d = true) (hline : lineAsserted s d = true) (hmask : (s.endpoint d).masked = false) :
    envStep (.deliver d) s = s.setEndpoint d ⟨true, true, (s.endpoint d).count + 1⟩ := by
  simp [envStep, hhandle, hstatus, hline, hmask]

theorem envStep_deliver_not_asserted {s : State} {d : Nat} (hline : lineAsserted s d = false) :
    envStep (.deliver d) s = s := by
  simp [envStep, hline]

theorem envStep_deliver_masked {s : State} {d : Nat} (hmask : (s.endpoint d).masked = true) :
    envStep (.deliver d) s = s := by
  simp [envStep, hmask]

/-- R211: the line, as the spec words it. -/
theorem lineAsserted_iff {s : State} {d : Nat} : lineAsserted s d = true ↔
    (s.cell d s.cfg.gpioGierOff).getLsbD 31 = true ∧ s.cell d s.cfg.gpioIsrOff &&& s.cell d s.cfg.gpioIerOff ≠ 0 := by
  simp [lineAsserted, gierTopBit]

/-- Settles O40: the line is asserted by R211, and each way the condition fails leaves the state alone. -/
theorem deliveryNeedsAnUnmaskedAssertedLine : Obligations.DeliveryNeedsAnUnmaskedAssertedLine := by
  intro s d hhandle hin hpwm
  have hstatus : hasStatus s.cfg d = true := by simp [hasStatus, cellLegal_iff.2 hin, hpwm]
  have hnoLine (h : ¬ lineAsserted s d = true) : envStep (.deliver d) s = s :=
    envStep_deliver_not_asserted (Bool.eq_false_iff.2 h)
  refine ⟨fun hgier hcause hmask => ?_, fun hgier => hnoLine ?_, fun hcause => hnoLine ?_, envStep_deliver_masked⟩
  · rw [envStep_deliver_delivers hhandle hstatus (lineAsserted_iff.2 ⟨hgier, hcause⟩) hmask]
    exact setEndpoint_endpoint_self s d _
  · rw [lineAsserted_iff, hgier]
    simp
  · rw [lineAsserted_iff]
    exact fun h => h.2 hcause

end Sys2Proof.Machine
end

section
/-! PROOFS. 60_exceptions.md: the multiplexer, from its initial action to its exit (R217, R225 to R227, R236, R266). -/

namespace Sys2Proof.Machine

/-! ### The gap before a host move sets only the quit flag of the host's state -/

@[simp] theorem envGap_mux (s : State) : (envGap s).host.mux = s.host.mux := congrArg (·.mux) (envGap_host s)
@[simp] theorem envGap_todo (s : State) : (envGap s).host.todo = s.host.todo := congrArg (·.todo) (envGap_host s)
@[simp] theorem envGap_waitSet (s : State) : (envGap s).host.waitSet = s.host.waitSet :=
  congrArg (·.waitSet) (envGap_host s)

/-! ### The moves of the multiplexer -/

theorem Ready.of_eq {s t : State} (hr : Ready s) (hcfg : t.cfg = s.cfg) (hbusy : t.busy = s.busy) : Ready t :=
  ⟨hcfg ▸ hr.1, hbusy.trans hr.2⟩

/-- An idle machine whose host has no work left makes the multiplexer's move. -/
theorem step_muxStep {s : State} (hr : Ready s) (hport : s.port = none) (htodo : s.host.todo = []) :
    step s = .next (muxStep (envGap s)) := by
  rw [step_hostStep hr hport, hostStep, envGap_todo, htodo]

theorem muxStep_beforeInitialAction {s : State} (h : s.host.mux = .beforeInitialAction) :
    muxStep s = s.withHost { s.host with mux := .initialAction, todo := bootOps s.cfg } := by
  rw [muxStep, h]

theorem muxStep_idle {s : State} (h : s.host.mux = .idle) : muxStep s = waitStep s := by
  rw [muxStep, h]

theorem muxStep_aboutToBlock {s : State} (h : s.host.mux = .aboutToBlock) (hquit : s.host.quit = false) :
    muxStep s = s.withHost { s.host with mux := .idle } := by
  simp [muxStep, h, hquit]

theorem waitStep_quit {s : State} (hquit : s.host.quit = true) : waitStep s = shutdown s := if_pos hquit

/-- R236: the flag is tested right before the wait and right after it. -/
theorem muxStep_quit {s : State} (h : s.host.mux = .aboutToBlock ∨ s.host.mux = .idle) (hquit : s.host.quit = true) :
    muxStep s = shutdown s := by
  rcases h with h | h
  · simp [muxStep, h, hquit]
  · rw [muxStep_idle h, waitStep_quit hquit]

theorem waitStep_failed {s : State} (hquit : s.host.quit = false) (herr : s.waitError = true) :
    waitStep s = { s with waitError := false, host := { s.host with mux := .aboutToBlock } } := by
  simp [waitStep, hquit, herr]

theorem waitStep_blocked {s : State} (hquit : s.host.quit = false) (herr : s.waitError = false)
    (hready : readySlots s = []) : waitStep s = s := by
  simp [waitStep, hquit, herr, hready]

theorem waitStep_serves {s : State} (hquit : s.host.quit = false) (herr : s.waitError = false)
    (hready : readySlots s ≠ []) : waitStep s = s.withHost { s.host with
      mux := .servicing, todo := (readySlots s).flatMap fun d => [.readPayload d, .dispatch d] } := by
  simp [waitStep, hquit, herr, hready]

/-! ### The slots of the boot order and of the wait -/

theorem slotsWith_rising (c : Config) (p : Nat → Bool) : (slotsWith c p).Pairwise (· < ·) :=
  List.pairwise_lt_range.filter p

/-- A property of the slots that speaks of the descriptor picks exactly the slots whose descriptor has it. -/
theorem mem_slotsWith {c : Config} {p : Nat → Bool} {d : Nat} {q : Device → Bool} (hp : p d = (c.dev[d]?).any q) :
    d ∈ slotsWith c p ↔ ∃ D, c.dev[d]? = some D ∧ q D = true := by
  rw [slotsWith, List.mem_filter, hp, Option.any_eq_true, List.mem_range]
  refine and_iff_right_of_imp ?_
  rintro ⟨D, hD, -⟩
  exact (List.getElem?_eq_some_iff.1 hD).1

/-- R266 step 3: the devices that the boot order configures (log 32). -/
theorem mem_slotsWith_configured {c : Config} {d : Nat} :
    d ∈ slotsWith c (fun d => c.mapped d && c.isInputOrIndicator d) ↔
      ∃ D, c.dev[d]? = some D ∧ D.mapped = true ∧ (D.kind = .motion ∨ D.kind = .swbtn ∨ D.kind = .indicator) := by
  rw [mem_slotsWith (q := fun D => D.mapped && (D.kind == .motion || D.kind == .swbtn || D.kind == .indicator))]
  · simp [or_assoc]
  · rw [Config.mapped, Config.isInputOrIndicator]
    cases c.dev[d]? <;> rfl

/-- R31: the sources the host waits on. -/
theorem mem_slotsWith_inWaitSet {c : Config} {d : Nat} : d ∈ slotsWith c c.inWaitSet ↔
    ∃ D, c.dev[d]? = some D ∧ D.hasIrq = true ∧ D.mapped = true ∧ D.hasHandle = true := by
  rw [mem_slotsWith (q := fun D => D.hasIrq && D.mapped && D.hasHandle) rfl]
  simp [and_assoc]

theorem readySlots_rising {s : State} (h : Store.sorted natLt s.host.waitSet = true) :
    (readySlots s).Pairwise (· < ·) :=
  (Store.keys_rising h).filter _

theorem mem_readySlots {s : State} {d : Nat} :
    d ∈ readySlots s ↔ d ∈ Store.keys s.host.waitSet ∧ (s.endpoint d).readable = true :=
  List.mem_filter

/-! ### An action on the host's own state -/

/-- An action that changes nothing but the host's own state, by `f`. -/
theorem step_hostUpdate {s : State} {op : HostOp} {rest : List HostOp} (f : HostSoftware → HostSoftware) (hr : Ready s)
    (hport : s.port = none) (htodo : s.host.todo = op :: rest)
    (hop : ∀ u, u.cfg = s.cfg → hostOp op u = .next (u.withHost (f u.host))) :
    step s = .next ((envGap s).withHost (f { s.host with quit := (envGap s).host.quit, todo := rest })) := by
  rw [step_hostOp hr hport htodo, hop _ ((withHost_cfg _ _).trans (envGap_cfg s)), withHost_host, envGap_host]
  rfl

/-! ### The obligations -/

/-- Settles O49: the first move plans `bootOps`, whose slots are those of R266 and R31; adding a handle is one write in
the wait set. -/
theorem bootConfiguresThenDarkensThenArms : Obligations.BootConfiguresThenDarkensThenArms := by
  refine ⟨fun s hr hport hmux htodo => ?_, fun s d rest hr hport htodo => ?_⟩
  · refine ⟨_, slotsWith s.cfg fun d => s.cfg.mapped d && s.cfg.isInputOrIndicator d, slotsWith s.cfg s.cfg.inWaitSet,
      step_muxStep hr hport htodo, ?_⟩
    rw [muxStep_beforeInitialAction (by rw [envGap_mux, hmux]), envGap_cfg]
    exact ⟨rfl, slotsWith_rising _ _, fun _ => mem_slotsWith_configured, slotsWith_rising _ _,
      fun _ => mem_slotsWith_inWaitSet, rfl⟩
  · exact ⟨_, step_hostUpdate (fun h => { h with waitSet := Store.set natLt d () h.waitSet }) hr hport htodo
      fun _ _ => rfl, rfl, Store.get?_set_self _ _ _ _, fun d' hd' => Store.get?_set_ne _ _ _ hd'⟩

/-- Settles O50: the wait serves `readySlots`, a part of the rising keys of the wait set. -/
theorem waitServesReadyHandlesInSlotOrder : Obligations.WaitServesReadyHandlesInSlotOrder := by
  intro s hr hport hmux htodo hsorted hquit herr
  have hwait : muxStep (envGap s) = waitStep (envGap s) := muxStep_idle (by rw [envGap_mux, hmux])
  refine ⟨_, readySlots (envGap s), step_muxStep hr hport htodo, readySlots_rising (by rwa [envGap_waitSet]),
    fun d => ?_, fun hnone => ?_, fun hsome => ?_⟩
  · rw [mem_readySlots, envGap_waitSet]
  · rw [hwait, waitStep_blocked hquit herr hnone]
  · rw [hwait, waitStep_serves hquit herr hsome]
    exact ⟨rfl, rfl⟩

/-- Settles O51: without a quit request the failure sends the host back to before the wait, from where it blocks again. -/
theorem failedWaitIsRetried : Obligations.FailedWaitIsRetried := by
  intro s hr hport hmux htodo herr
  have hidle : (envGap s).host.mux = .idle := by rw [envGap_mux, hmux]
  have hport' : (envGap s).port = none := (envGap_port s).trans hport
  have htodo' : (envGap s).host.todo = [] := (envGap_todo s).trans htodo
  refine ⟨_, step_muxStep hr hport htodo, ?_⟩
  cases hquit : (envGap s).host.quit with
  | true =>
    rw [muxStep_quit (.inr hidle) hquit]
    exact ⟨hport', rfl, rfl, rfl, envGap_bus s, nofun, fun _ => rfl⟩
  | false =>
    rw [muxStep_idle hidle, waitStep_failed hquit herr]
    refine ⟨hport', htodo', rfl, rfl, envGap_bus s, fun _ => ⟨rfl, rfl, envGap_waitSet s, fun hquit' => ?_⟩, nofun⟩
    refine ⟨_, step_muxStep (hr.of_eq (envGap_cfg s) (envGap_busy s)) hport' htodo', ?_⟩
    rw [muxStep_aboutToBlock (envGap_mux _) hquit']
    exact ⟨rfl, (envGap_todo _).trans htodo'⟩

/-- Settles O52: both tests of the flag end in `shutdown`, which touches the host's state alone. -/
theorem quitExitsAroundTheWait : Obligations.QuitExitsAroundTheWait := by
  intro s hr hport hmux htodo hquit
  refine ⟨_, step_muxStep hr hport htodo, ?_⟩
  rw [muxStep_quit (by rwa [envGap_mux]) hquit]
  exact ⟨rfl, (envGap_port s).trans hport, rfl, rfl, rfl, envGap_bus s⟩

end Sys2Proof.Machine
end

section
/-! PROOFS. 60_exceptions.md: the reactive handler: palettes, words and indicator bits (R219, R228 to R231, R234). -/

namespace Sys2Proof.Machine

/-! ### Palette components (R234) -/

theorem addComponent_wrap_toNat (x : Byte) (delta : Int) :
    (addComponent .wrap x delta).toNat = ((x.toNat + delta) % 256).toNat := by
  simp [addComponent, BitVec.toNat_ofInt]

theorem addComponent_saturate_toNat (x : Byte) (delta : Int) :
    (addComponent .saturate x delta).toNat = (max 0 (min 255 (x.toNat + delta))).toNat := by
  rw [addComponent, BitVec.toNat_ofInt]
  omega

/-- Settles O56: both policies as sums of natural numbers. -/
theorem paletteArithmeticWrapsOrSaturates : Obligations.PaletteArithmeticWrapsOrSaturates := by
  refine ⟨fun x => ⟨?_, ?_, ?_, ?_⟩, by decide⟩
  · rw [addComponent_wrap_toNat]
    omega
  · rw [addComponent_wrap_toNat]
    omega
  · rw [addComponent_saturate_toNat]
    omega
  · have := x.isLt
    rw [addComponent_saturate_toNat]
    omega

/-! ### The palette rule (R219, R229) -/

/-- A mask of one bit tests that bit. -/
theorem and_oneBit_eq_zero_iff (w : Word) (n : Fin 32) : w &&& oneBit n = 0 ↔ w.getLsbD n = false := by
  have hne : BitVec.twoPow 32 n ≠ 0#32 := by
    rw [ne_eq, ← BitVec.toNat_inj, BitVec.toNat_twoPow_of_lt n.isLt]
    simp
  rw [oneBit, ← BitVec.twoPow_eq, BitVec.and_twoPow]
  cases w.getLsbD n <;> simp [hne]

/-- The rule by the masks of R219, first match wins. -/
theorem paletteRuleFor_masks (a : PaletteArith) (sw : Word) (p0 p1 : Palette) : paletteRuleFor a sw p0 p1 =
    if sw &&& 1 ≠ 0 then ({ p0 with r := addComponent a p0.r 32 }, { p1 with b := addComponent a p1.b (-32) })
    else if sw &&& 2 ≠ 0 then Config.Free.paletteRule .bit2 p0 p1
    else if sw &&& 4 ≠ 0 then Config.Free.paletteRule .bit4 p0 p1
    else if sw &&& 8 ≠ 0 then Config.Free.paletteRule .bit8 p0 p1
    else (p0, p1) := by
  have hbit (n : Fin 32) : sw &&& oneBit n ≠ 0 ↔ sw.getLsbD n = true := by
    rw [ne_eq, and_oneBit_eq_zero_iff, Bool.not_eq_false]
  have h1 : sw &&& 1 ≠ 0 ↔ sw.getLsbD 0 = true := hbit 0
  have h2 : sw &&& 2 ≠ 0 ↔ sw.getLsbD 1 = true := hbit 1
  have h4 : sw &&& 4 ≠ 0 ↔ sw.getLsbD 2 = true := hbit 2
  have h8 : sw &&& 8 ≠ 0 ↔ sw.getLsbD 3 = true := hbit 3
  simp only [paletteRuleFor, h1, h2, h4, h8]

/-! ### The actions on the host's own words -/

/-- R228: the palettes after the reset that a button down asks for. -/
def neutralized (h : HostSoftware) : HostSoftware :=
  if h.btn = 0 then h else { h with pal0 := paletteNeutral, pal1 := paletteNeutral }

/-- R229: the palettes after the rule that the switch word selects. -/
def ruleApplied (a : PaletteArith) (h : HostSoftware) : HostSoftware :=
  { h with pal0 := (paletteRuleFor a h.sw h.pal0 h.pal1).1, pal1 := (paletteRuleFor a h.sw h.pal0 h.pal1).2 }

section
variable {s : State} {rest : List HostOp} (hr : Ready s) (hport : s.port = none)
include hr hport

theorem step_neutralIfButton (htodo : s.host.todo = .neutralIfButton :: rest) : step s = .next
    ((envGap s).withHost (neutralized { s.host with quit := (envGap s).host.quit, todo := rest })) := by
  refine step_hostUpdate neutralized hr hport htodo fun u _ => ?_
  rw [hostOp, neutralized]
  split <;> rfl

theorem step_applyPaletteRule (htodo : s.host.todo = .applyPaletteRule :: rest) : step s = .next
    ((envGap s).withHost (ruleApplied s.cfg.paletteArith
      { s.host with quit := (envGap s).host.quit, todo := rest })) :=
  step_hostUpdate (ruleApplied s.cfg.paletteArith) hr hport htodo fun u hcfg => by rw [hostOp, hcfg]; rfl

end

/-- Settles O55: the step applies the rule, which the masks of R219 select in their order. -/
theorem paletteRuleIsTheFirstSwitchBit : Obligations.PaletteRuleIsTheFirstSwitchBit := by
  intro s rest hr hport htodo
  refine ⟨_, step_applyPaletteRule hr hport htodo, rfl, rfl, ?_⟩
  simp only [withHost_host, ruleApplied, paletteRuleFor_masks]
  refine ⟨fun h1 => ?_, fun h1 h2 => ?_, fun h1 h2 h4 => ?_, fun h1 h2 h4 h8 => ?_, fun h1 h2 h4 h8 => ?_,
    fun h5 => ?_⟩
  · rw [if_pos h1]
    exact ⟨rfl, rfl⟩
  · rw [if_neg (not_not.2 h1), if_pos h2]
  · rw [if_neg (not_not.2 h1), if_neg (not_not.2 h2), if_pos h4]
  · rw [if_neg (not_not.2 h1), if_neg (not_not.2 h2), if_neg (not_not.2 h4), if_pos h8]
  · rw [if_neg (not_not.2 h1), if_neg (not_not.2 h2), if_neg (not_not.2 h4), if_neg (not_not.2 h8)]
    exact ⟨rfl, rfl⟩
  · rw [h5, if_pos (by decide)]

/-- Two moves of the host in a row. -/
theorem core_run_two {s t u : State} (hst : step s = .next t) (htu : step t = .next u) : core.run 2 s = .next u := by
  rw [core_run_succ (M := core) hst, core_run_succ (M := core) htu]
  rfl

/-- R229, S4: the palettes of rule 0x1 from neutral ones. -/
theorem paletteRuleFor_one_neutral (a : PaletteArith) : paletteRuleFor a 1 paletteNeutral paletteNeutral =
    (⟨34, 2, 2⟩, ⟨2, 2, addComponent a 2 (-32)⟩) := by
  cases a <;> rfl

/-- Settles O57: the reset is one action on the host's words; the rule of the next action then starts from neutral
palettes. -/
theorem buttonResetsPalettesBeforeTheRule : Obligations.ButtonResetsPalettesBeforeTheRule := by
  refine ⟨fun s rest hr hport htodo => ?_, fun s rest hr hport htodo hbtn hsw => ?_⟩
  · refine ⟨_, step_neutralIfButton hr hport htodo, ?_⟩
    by_cases hbtn : s.host.btn = 0
    · rw [neutralized, if_pos hbtn]
      exact ⟨rfl, rfl, rfl, fun hdown => absurd hbtn hdown, fun _ => ⟨rfl, rfl⟩⟩
    · rw [neutralized, if_neg hbtn]
      exact ⟨rfl, rfl, rfl, fun _ => ⟨rfl, rfl⟩, fun hup => absurd hup hbtn⟩
  · have hreset := step_neutralIfButton hr hport htodo
    rw [neutralized, if_neg hbtn] at hreset
    refine ⟨_, core_run_two hreset (step_applyPaletteRule (hr.of_eq (envGap_cfg s) (envGap_busy s))
      ((envGap_port s).trans hport) rfl), rfl, ?_⟩
    simp only [withHost_host, ruleApplied, hsw, withHost_cfg, envGap_cfg, paletteRuleFor_one_neutral, true_and]
    exact ⟨fun hwrap => by rw [hwrap]; rfl, fun hsat => by rw [hsat]; rfl⟩

/-! ### The changed words (R231) -/

/-- R231: the host's state after the comparison of the switch word read with the stored one. -/
def switchesCompared (c : Config) (h : HostSoftware) : HostSoftware :=
  if h.tmpA = h.sw then h
  else { h with sw := h.tmpA, cntSw := h.cntSw + 1, todo := toggleOps c.swIndBit ++ h.todo }

/-- R231: the same for the button word. -/
def buttonsCompared (c : Config) (h : HostSoftware) : HostSoftware :=
  if h.tmpB = h.btn then h
  else { h with btn := h.tmpB, cntBtn := h.cntBtn + 1, todo := toggleOps c.btnIndBit ++ h.todo }

theorem hostOp_compareSwitches (u : State) :
    hostOp .compareSwitches u = .next (u.withHost (switchesCompared u.cfg u.host)) := by
  rw [hostOp, switchesCompared]
  split <;> rfl

theorem hostOp_compareButtons (u : State) :
    hostOp .compareButtons u = .next (u.withHost (buttonsCompared u.cfg u.host)) := by
  rw [hostOp, buttonsCompared]
  split <;> rfl

/-- Settles O59: each comparison is one action on the host's words, whose two branches are the two claims. -/
theorem changedWordCountsAndTogglesOnce : Obligations.ChangedWordCountsAndTogglesOnce := by
  refine fun s rest hr hport => ⟨fun htodo => ?_, fun htodo => ?_⟩
  · refine ⟨_, step_hostUpdate (switchesCompared s.cfg) hr hport htodo
      fun u hcfg => hcfg ▸ hostOp_compareSwitches u, fun hsame => ?_, fun hchanged => ?_⟩
    · rw [switchesCompared, if_pos hsame]
      exact ⟨rfl, rfl, rfl⟩
    · rw [switchesCompared, if_neg hchanged]
      exact ⟨rfl, rfl, rfl⟩
  · refine ⟨_, step_hostUpdate (buttonsCompared s.cfg) hr hport htodo
      fun u hcfg => hcfg ▸ hostOp_compareButtons u, fun hsame => ?_, fun hchanged => ?_⟩
    · rw [buttonsCompared, if_pos hsame]
      exact ⟨rfl, rfl, rfl⟩
    · rw [buttonsCompared, if_neg hchanged]
      exact ⟨rfl, rfl, rfl⟩

end Sys2Proof.Machine
end

section
/-! PROOFS. 60_exceptions.md: the toggle of the indicator's data register (R41, R230, R231; log 8). -/

namespace Sys2Proof.Machine

theorem regAt_gpioData1 {c : Config} {d : Nat} (hw : c.wellFormed = true) (hpwm : isPwm c d = false) :
    regAt c d c.gpioData1Off = .data1 := by
  have hne : c.gpioData1Off ≠ c.gpioIsrOff := by
    have hn := wf_gpio_nodup hw
    simp only [List.nodup_cons, List.mem_cons, not_or] at hn
    obtain ⟨⟨-, -, -, -, hisr, -⟩, -⟩ := hn
    exact hisr
  simp [regAt, hpwm, gpioRegAt, hne]

theorem wf_tri1_ne_data1 {c : Config} (hw : c.wellFormed = true) : c.gpioTri1Off ≠ c.gpioData1Off := by
  have hn := wf_gpio_nodup hw
  simp only [List.nodup_cons, List.mem_cons, not_or] at hn
  obtain ⟨⟨htri, -⟩, -⟩ := hn
  exact Ne.symm htri

/-- A channel that is all outputs reads its latch. -/
theorem dataValue_outputs (latch level : Word) : dataValue 0 latch level = latch := by
  show latch &&& ~~~0#32 ||| level &&& 0#32 = latch
  rw [BitVec.not_zero, BitVec.and_allOnes, BitVec.and_zero, BitVec.or_zero]

theorem readValue_data1_outputs {s : State} {d : Nat} (hw : s.cfg.wellFormed = true) (hpwm : isPwm s.cfg d = false)
    (htri : s.cell d s.cfg.gpioTri1Off = 0) : readValue s d s.cfg.gpioData1Off = s.cell d s.cfg.gpioData1Off := by
  have hread : readValue s d s.cfg.gpioData1Off = dataValue (s.cell d s.cfg.gpioTri1Off) _ _ :=
    readValue_dataOff hw hpwm .ch1
  rw [hread, htri, dataValue_outputs]
  rfl

theorem memWrite_cfg (d i : Nat) (v : Word) (s : State) : (memWrite d i v s).cfg = s.cfg := by
  obtain ⟨m, hm⟩ := memWrite_eq d i v s
  rw [hm]

theorem memWrite_host (d i : Nat) (v : Word) (s : State) : (memWrite d i v s).host = s.host := by
  obtain ⟨m, hm⟩ := memWrite_eq d i v s
  rw [hm]

/-- A channel that is all outputs reads back what was written to its data register. -/
theorem readValue_memWrite_data1 {s : State} {d : Nat} (hw : s.cfg.wellFormed = true) (hpwm : isPwm s.cfg d = false)
    (htri : s.cell d s.cfg.gpioTri1Off = 0) (v : Word) :
    readValue (memWrite d s.cfg.gpioData1Off v s) d s.cfg.gpioData1Off = v := by
  have hread := readValue_data1_outputs (s := memWrite d s.cfg.gpioData1Off v s) (d := d)
  rw [memWrite_cfg, memWrite_cell_ne v s fun h => wf_tri1_ne_data1 hw h.2] at hread
  rw [hread hw hpwm htri, memWrite_cell_self, regAt_gpioData1 hw hpwm]
  rfl

/-- The state after the host's read of the indicator's data register. -/
def indicatorRead (rest : List HostOp) (s : State) : State :=
  s.withHost { s.host with todo := rest, tmpT := readValue s indSlot s.cfg.gpioData1Off }

section
variable {s : State} {rest : List HostOp} (hr : Ready s) (hport : s.port = none) (hquiet : s.gaps = [])
  (hin : InWindow s.cfg indSlot s.cfg.gpioData1Off)
include hr hport hquiet hin

theorem step_readIndicator (htodo : s.host.todo = .readIndicator :: rest) (hpwm : isPwm s.cfg indSlot = false) :
    step s = .next (indicatorRead rest s) := by
  rw [step_hostOp hr hport htodo, envGap_quiet hquiet, hostOp]
  refine (hostRead_legal (s := s.withHost { s.host with todo := rest }) (cellLegal_iff.2 hin)).trans ?_
  rw [afterRead_known]
  · rfl
  · simp [regAt_gpioData1 hr.1 hpwm]

theorem step_writeIndicator {mask : Word} (htodo : s.host.todo = .writeIndicator mask :: rest) :
    step s = .next (memWrite indSlot s.cfg.gpioData1Off (s.host.tmpT ^^^ mask)
      (s.withHost { s.host with todo := rest })) := by
  rw [step_hostOp hr hport htodo, envGap_quiet hquiet]
  exact hostWrite_legal (cellLegal_iff.2 hin)

end

/-- Settles O58: the write stores the value read with the mask's bits inverted, and an all-output channel reads back what
was stored. -/
theorem indicatorToggleInvertsTheMaskBits : Obligations.IndicatorToggleInvertsTheMaskBits := by
  intro s mask rest hr hport hquiet htodo hin hpwm htri
  have hread := step_readIndicator hr hport hquiet hin htodo hpwm
  have hwrite := step_writeIndicator (s := indicatorRead (.writeIndicator mask :: rest) s) hr hport hquiet hin rfl
  refine ⟨_, core_run_two hread hwrite, ?_, ?_, fun d i hne => memWrite_cell_ne _ _ hne⟩
  · rw [memWrite_host]
    rfl
  · exact readValue_memWrite_data1 (s := (indicatorRead (.writeIndicator mask :: rest) s).withHost
      { (indicatorRead (.writeIndicator mask :: rest) s).host with todo := rest }) hr.1 hpwm htri _

end Sys2Proof.Machine
end

section
/-! PROOFS. 70_reset_and_hazards.md: the invariants hold at reset (R261), where every store is empty. -/

namespace Sys2Proof.Machine

/-- CMD is a free value at reset, so it is FAILACC = 0 that makes the clause on its opcode hold. -/
theorem reset_blockLegal : BlockLegal State.reset where
  result := by decide
  k _ := rfl
  failAcc := nofun

theorem reset_hostLegal : HostLegal State.reset where
  waitSet := rfl
  cntMotion := rfl
  payload := nofun

theorem reset_registerInv : RegisterInv State.reset :=
  have hblock := reset_blockLegal
  have hhost := reset_hostLegal
  ⟨rfl, rfl, rfl, rfl, hhost.waitSet, hhost.cntMotion, hblock.result, hblock.k, hblock.failAcc, hhost.payload⟩

/-- The wait set is empty and the host has planned nothing: its sources come with its initial action (R266). -/
theorem reset_sourcesValid : SourcesValid State.reset where
  waiting := nofun
  planned := nofun

theorem reset_windowInv : WindowInv State.reset :=
  windowInv_iff.2 ⟨nofun, reset_sourcesValid⟩

/-- Settles O44: no cell was touched, no handle is waited on, and BUSY, K, RESULT and FAILACC are 0 (R261). -/
theorem resetMeetsTheInvariants : Obligations.ResetMeetsTheInvariants :=
  ⟨reset_registerInv, reset_windowInv⟩

end Sys2Proof.Machine
end
